-- ==== Sys2Proof/Word.lean ====
section
/-! DEFINITION. The word types of the block: every value is an unsigned bit vector (R10). -/

namespace Sys2Proof

/-- A byte of a buffer or of the line, 8 bits (R60). -/
abbrev Byte := BitVec 8

/-- A codeword, a CRC or a field of a block, 16 bits (R81, R190, R93). -/
abbrev Word16 := BitVec 16

/-- The 11-bit data value of a codeword: the payload of CMDW and ARGW (R87, R88). -/
abbrev Data11 := BitVec 11

/-- An address of a command: a value of at most 8 bits, below `2 ^ ADDR_W` (R8, R87: `ADDR_W + 3 + ARG_W = 11`). -/
abbrev Addr := BitVec 8

/-- The opcode field of a command, `OP_W` = 3 bits (R90). -/
abbrev Opcode := BitVec 3

end Sys2Proof
end

