-- ==== Sys2Proof/Config.lean ====
section
/-! DEFINITION. The configuration of R8, the constants of the source, and the free value of the spec's
unspecified bytes. -/

namespace Sys2Proof

/-- R2: the two roles of the block. -/
inductive Role where
  /-- a cell-monitoring module: one bit per timer tick -/
  | moduleRole
  /-- the master controller: DMA-buffered byte stream -/
  | masterRole
deriving DecidableEq, Repr

/-- R8, `WORD_ORDER`: the byte order of a 16-bit word on the line and in a block. -/
inductive WordOrder where
  /-- low byte first: the spec's value (R64, R65) -/
  | little
  /-- high byte first: the other value the parameter can take -/
  | big
deriving DecidableEq, Repr

/-- R60: the three address spaces. -/
inductive Space where
  | rxbuf
  | txbuf
  | ring
deriving DecidableEq, Repr

/-- R8: what an implementation fixes. It is no state (R20); no step changes it. -/
structure Config where
  /-- `ROLE` -/
  role : Role
  /-- `BIT_TICKS`, module timer counts per bit -/
  bitTicks : Nat
  /-- `BREAK_BITS`, length of a break the master generates, in bit times -/
  breakBits : Nat
  /-- `BREAK_GAP`, logical 1 between a break and the next start bit, in bit times -/
  breakGap : Nat
  /-- `RXBUF_LEN` -/
  rxbufLen : Nat
  /-- `TXBUF_LEN` -/
  txbufLen : Nat
  /-- `TURNAROUND`, in ticks -/
  turnaround : Nat
  /-- `RING_LEN` -/
  ringLen : Nat
  /-- `ADDR_W`, the width of a command's address field (R87) -/
  addrW : Nat
  /-- `ARG_W`, the width of the first word's argument field (R87) -/
  argW : Nat
  /-- `BCAST`, the broadcast address -/
  bcast : Addr
  /-- `WIDE`, the opcodes that carry a second word -/
  wide : List Opcode
  /-- `WORD_ORDER` -/
  wordOrder : WordOrder
  /-- The electrical level of the master's logical 1 under DEFAULT wiring: the spec leaves it open
  (R178 "one electrical level", N20). DESIGN CHOICE of the field (log 17). -/
  mapDefaultOne : Bool
  /-- The wiring of the installation: the electrical level that means logical 1 to the other devices on the line,
  and at which the undriven line rests (R86, R130, R300). DESIGN CHOICE of the field (log 29). -/
  lineOne : Bool
  /-- `BAUD`, bit/s; timing only (R310) -/
  baud : Nat
  /-- `SETTLE`, in ms; timing only (R219) -/
  settle : Nat
  /-- `REPLY_DELAY`; timing only (R305) -/
  replyDelay : Nat
deriving DecidableEq, Repr

namespace Config

/-- `K_DATA` (R8). -/
def kData : Nat := 11
/-- `N_CODE` (R8). -/
def nCode : Nat := 16
/-- `OP_W` (R8). -/
def opW : Nat := 3
/-- `ADDR_MAX`, the largest module address (R8). -/
def addrMax : Nat := 63
/-- `N_ANALOG` + `N_TEMP`, the channels of a Measurement Block (R8, R93). -/
def channels : Nat := 5
/-- `PAGE_WORDS` (R8). -/
def pageWords : Nat := 32
/-- The lengths in bytes of the three blocks (R240). -/
def measLen : Nat := 13
def verLen : Nat := 12
def pageLen : Nat := 67

/-- R90: SETADDR and SHUNTON, the spec's value of `WIDE`. -/
def wideDefault : List Opcode := [1, 2]

/-- `T_BIT` = 1 / `BAUD`, in seconds (R8); timing only (R310). -/
def tBit (c : Config) : Rat := 1 / c.baud

/-- The period of the module's timer, in seconds: `BIT_TICKS` of them are one `T_BIT` (R8, R295). -/
def timerPeriod (c : Config) : Rat := c.tBit / c.bitTicks

/-- R8's constraints. DEDUCED: the address field holds every module address (R43) and `BCAST` (log 6); opcode 4 is not in
`WIDE` (R218, log 26). -/
def wf (c : Config) : Bool :=
  decide (2 ≤ c.bitTicks) && decide (10 ≤ c.breakBits) && decide (1 ≤ c.breakGap) &&
  decide (4 ≤ c.rxbufLen) && decide (13 ≤ c.txbufLen) && decide (1 ≤ c.turnaround) &&
  decide (67 ≤ c.ringLen) && decide (c.addrW + opW + c.argW = kData) && decide (addrMax < 2 ^ c.addrW) &&
  decide (c.bcast.toNat < 2 ^ c.addrW) && !c.wide.contains 4 && decide (1 ≤ c.baud)

/-- The configuration of the machine after reset: the values that 95_test_vectors.md Part 3 uses "unless a
program says otherwise", BIT_TICKS of its V20 and V27. DESIGN CHOICE (log 5): R8 leaves them OPEN. -/
def default : Config where
  role := .moduleRole
  bitTicks := 8
  breakBits := 10
  breakGap := 1
  rxbufLen := 16
  txbufLen := 16
  turnaround := 2
  ringLen := 128
  addrW := 8
  argW := 0
  bcast := 0xAA
  wide := wideDefault
  wordOrder := .little
  mapDefaultOne := true
  lineOne := true
  baud := 10000
  settle := 10
  replyDelay := 0

/-- U1: the value of a byte that the spec leaves unspecified: a byte of a buffer never written since reset
(content `none`), or a byte of RXBUF at or beyond `rx_count` (content what the cell holds). A FREE VALUE: it has
no body, so no proof can know it (log 10). It depends on the space, the offset and the cell's content only, so
that reading twice gives the same byte (R70). -/
opaque unspecifiedByte : Space → Nat → Option Byte → Byte

/-- R220: the module count that a master infers from a last forwarded slot of 0. The rule takes g - 1 and gives the
subtraction no width and no wrap. A FREE VALUE: it has no body (log 23). -/
opaque countBelowSlotZero : Nat

end Config
end Sys2Proof
end

