-- ==== Sys2Proof/Syntax.lean ====
section
/-! DEFINITION. One constructor for every row of spec/opcode_table.json. -/

namespace Sys2Proof

/-- R39: the two settings of the master's wiring selection. -/
inductive MMap where
  | default
  | remapped
deriving DecidableEq, Repr

/-- R87, R201: the fields of a one-word command but for its opcode: the address, and the argument that travels in the
`ARG_W` low bits of the word, 0 with `ARG_W = 0`. -/
structure CommandFields where
  addr : Addr
  arg : Data11
deriving DecidableEq, Repr

/-- The commands, formats, operations and events of the block (R80, R90, R100). Operands are the operands of
R100's table and the fields of the formats. -/
inductive Instr where
  -- command words CMDW (R87, R90), with ARGW, the second operand, where the opcode has a second word (R88, R200)
  | getdata (a : CommandFields)
  | setaddr (a : Addr) (slot : Data11)
  | shunton (a : Addr) (mask : Data11)
  | version (a : CommandFields)
  | reserved4 (a : CommandFields)
  | addrmode (a : CommandFields)
  | breakCmd (a : CommandFields)
  | boot (a : CommandFields)
  -- formats on the line (R80)
  | argw (g : Data11)
  | cw16 (c : Word16)
  | frame10 (b : Byte)
  | break10
  -- unit HAM
  | hamEnc (d : Data11)
  | hamDec (c : Word16)
  -- unit SER, module side; `v` is the electrical level sampled
  | polDetect
  | edge
  | tickRxStart (v : Bool)
  | tickRxData (v : Bool)
  | tickRxStop (v : Bool)
  | tickTx (v : Bool)
  | rxStatus
  | rxRead (off : Nat)
  | rxSetlen (n : Nat)
  | rxAck
  | txSend (bs : List Byte)
  | txStatus
  -- unit SER, master side
  | capture (b : Byte)
  | mAvail
  | mReadlast (n : Nat)
  | mSend (brk : Bool) (bs : List Byte)
  | txc
  | mSetmap (m : MMap)
  -- the CRC engine
  | crcInit
  | crcUpdate (b : Byte)
  | crcBlock (bs : List Byte)
  -- unit FRM, commands
  | cmdPack (a : Addr) (op : Opcode) (g : Data11)
  | cmdUnpack (p : Data11)
  | cmdEncode (a : Addr) (op : Opcode) (g : Data11)
  | cmdDecode (bs : List Byte)
  | cmdSend (a : Addr) (op : Opcode) (g : Data11)
  | cmdRecv
  | filter (a : Addr) (op : Opcode) (g : Data11)
  | forward (slot : Data11)
  -- unit FRM, CRC-trailed blocks
  | measBuild (v0 v1 v2 v3 v4 : Word16)
  | measCheck (bs : List Byte)
  | verBuild (sw hw : List Byte) (sn : BitVec 32)
  | verCheck (bs : List Byte)
  | pageBuild (n : Byte) (ws : List Word16)
  | pageCheck (bs : List Byte)
  -- the three blocks as formats on the line (R93 to R95), as the bytes that travel (R241)
  | meas (bs : List Byte)
  | ver (bs : List Byte)
  | page (bs : List Byte)
deriving DecidableEq, Repr

end Sys2Proof
end

