-- ==== Sys2Proof/WellFormed.lean ====
section
/-! DEFINITION. The operand shapes that the spec fixes, and the operands that a configuration's fields can hold. -/

namespace Sys2Proof

/-- The operand lengths and counts of R100's table: block lengths of R240, the field lengths of R246 and R248, the
2 or 4 bytes of R204, and the lower bounds of R141, R148, R172, R175. Bounds on buffer lengths
(R8) are checked where the operation runs. -/
def Instr.wf : Instr → Bool
  | .txSend bs => !bs.isEmpty
  | .rxSetlen n => decide (1 ≤ n)
  | .mReadlast n => decide (1 ≤ n)
  | .mSend brk bs => brk || !bs.isEmpty
  | .cmdDecode bs => bs.length == 2 || bs.length == 4
  | .measCheck bs => bs.length == Config.measLen
  | .verBuild sw hw _ => sw.length == 4 && hw.length == 2
  | .verCheck bs => bs.length == Config.verLen
  | .pageBuild _ ws => ws.length == Config.pageWords
  | .pageCheck bs => bs.length == Config.pageLen
  | .meas bs => bs.length == Config.measLen
  | .ver bs => bs.length == Config.verLen
  | .page bs => bs.length == Config.pageLen
  | .getdata _ | .setaddr _ _ | .shunton _ _ | .version _ | .reserved4 _ | .addrmode _ | .breakCmd _ | .boot _
  | .argw _ | .cw16 _ | .frame10 _ | .break10 | .hamEnc _ | .hamDec _ | .polDetect | .edge | .tickRxStart _
  | .tickRxData _ | .tickRxStop _ | .tickTx _ | .rxStatus | .rxRead _ | .rxAck | .txStatus | .capture _ | .mAvail
  | .txc | .mSetmap _ | .crcInit | .crcUpdate _ | .crcBlock _ | .cmdPack _ _ _ | .cmdUnpack _ | .cmdEncode _ _ _
  | .cmdSend _ _ _ | .cmdRecv | .filter _ _ _ | .forward _ | .measBuild _ _ _ _ _ => true

/-- R8, R200: an address of `ADDR_W` bits. -/
def Config.fitsAddr (c : Config) (a : Addr) : Bool := decide (a.toNat < 2 ^ c.addrW)

/-- R87, R88, R200: a command whose fields the configuration's packing can carry: an address of `ADDR_W` bits, and an
argument of `ARG_W` bits where the opcode has no second word. -/
def Config.carries (c : Config) (a : Addr) (op : Opcode) (g : Data11) : Bool :=
  c.fitsAddr a && (c.wide.contains op || decide (g.toNat < 2 ^ c.argW))

/-- The operands that the fields of a configuration can hold (R8, R87, R200). -/
def Instr.fits (c : Config) : Instr → Bool
  | .getdata a => c.carries a.addr 0 a.arg
  | .setaddr a g => c.carries a 1 g
  | .shunton a g => c.carries a 2 g
  | .version a => c.carries a.addr 3 a.arg
  | .reserved4 a => c.carries a.addr 4 a.arg
  | .addrmode a => c.carries a.addr 5 a.arg
  | .breakCmd a => c.carries a.addr 6 a.arg
  | .boot a => c.carries a.addr 7 a.arg
  | .cmdPack a _ _ | .cmdEncode a _ _ | .cmdSend a _ _ | .filter a _ _ => c.fitsAddr a
  | .argw _ | .cw16 _ | .frame10 _ | .break10 | .hamEnc _ | .hamDec _ | .polDetect | .edge | .tickRxStart _
  | .tickRxData _ | .tickRxStop _ | .tickTx _ | .rxStatus | .rxRead _ | .rxSetlen _ | .rxAck | .txSend _ | .txStatus
  | .capture _ | .mAvail | .mReadlast _ | .mSend _ _ | .txc | .mSetmap _ | .crcInit | .crcUpdate _ | .crcBlock _
  | .cmdUnpack _ | .cmdDecode _ | .cmdRecv | .forward _ | .measBuild _ _ _ _ _ | .measCheck _ | .verBuild _ _ _
  | .verCheck _ | .pageBuild _ _ | .pageCheck _ | .meas _ | .ver _ | .page _ => true

end Sys2Proof
end

