-- ==== Sys2Proof/Decode.lean ====
section
/-! DEFINITION. From a request (a name of R100 or a format, with its operand words) to an instruction, and back.
The block fetches no instruction (R41) and R100 gives its operations no bits, so the request is the model's form
of "NAME arg, arg" (log 2); the formats' words are read by the fields of 30_encoding.md. -/

namespace Sys2Proof

/-- What a request names: a format of R80 or an operation or event of R100. `cmdw` stands for the eight command
rows (told apart by their opcode bits), `line10` for FRAME10 and BREAK10 (told apart by their ten bits). -/
inductive Head where
  | cmdw | argw | cw16 | line10 | meas | ver | page
  | hamEnc | hamDec
  | polDetect | edge | tickRxStart | tickRxData | tickRxStop | tickTx
  | rxStatus | rxRead | rxSetlen | rxAck | txSend | txStatus
  | capture | mAvail | mReadlast | mSend | txc | mSetmap
  | crcInit | crcUpdate | crcBlock
  | cmdPack | cmdUnpack | cmdEncode | cmdDecode | cmdSend | cmdRecv | filter | forward
  | measBuild | measCheck | verBuild | verCheck | pageBuild | pageCheck
deriving DecidableEq, Repr

/-- One request: a name and its operand words in order. -/
structure Request where
  head : Head
  args : List Nat
deriving DecidableEq, Repr

/-- Why a request stands for no instruction. -/
inductive DecodeError where
  /-- the name takes another number of operand words -/
  | argCount
  /-- an operand word does not fit its field -/
  | operandRange
  /-- a command word whose opcode has a second word (R90) comes without it -/
  | missingSecondWord
  /-- ten bits that are neither FRAME10 (R84) nor BREAK10 (R85) -/
  | unknownSlot
  /-- an operand has a shape R100 does not allow (`Instr.wf`), or is too wide for the configuration (`Instr.fits`) -/
  | illFormed
deriving DecidableEq, Repr

/-- The answer of the decoder. -/
abbrev Decoded := Except DecodeError Instr

/-- One operand word into a field of `n` bits; a word that does not fit is refused. -/
def field (n x : Nat) (k : BitVec n → Decoded) : Decoded :=
  if x < 2 ^ n then k (BitVec.ofNat n x) else .error .operandRange

/-- One operand word as a level or flag: 0 or 1. -/
def levelField (x : Nat) (k : Bool → Decoded) : Decoded :=
  match x with
  | 0 => k false
  | 1 => k true
  | _ => .error .operandRange

/-- Every operand word as a field of `n` bits. -/
def fields (n : Nat) : List Nat → (List (BitVec n) → Decoded) → Decoded
  | [], k => k []
  | x :: xs, k => field n x fun b => fields n xs fun bs => k (b :: bs)

def noArg (i : Instr) : List Nat → Decoded
  | [] => .ok i
  | _ => .error .argCount

def oneField (n : Nat) (k : BitVec n → Instr) : List Nat → Decoded
  | [x] => field n x fun v => .ok (k v)
  | _ => .error .argCount

def oneLevel (k : Bool → Instr) : List Nat → Decoded
  | [x] => levelField x fun v => .ok (k v)
  | _ => .error .argCount

def oneNat (k : Nat → Instr) : List Nat → Decoded
  | [x] => .ok (k x)
  | _ => .error .argCount

/-- Operands (address, opcode, argument) of R200. -/
def commandFields (k : Addr → Opcode → Data11 → Instr) : List Nat → Decoded
  | [a, op, g] => field 8 a fun a => field 3 op fun op => field 11 g fun g => .ok (k a op g)
  | _ => .error .argCount

def byteFields (k : List Byte → Instr) (xs : List Nat) : Decoded :=
  fields 8 xs fun bs => .ok (k bs)

/-- R201: `a <- p[10 : 11-ADDR_W]`. -/
def payloadAddr (c : Config) (p : Data11) : Addr := BitVec.ofNat 8 (p.toNat / 2 ^ (11 - c.addrW))

/-- R201: `op <- p[10-ADDR_W : 8-ADDR_W]`. -/
def payloadOp (c : Config) (p : Data11) : Opcode := BitVec.ofNat 3 (p.toNat / 2 ^ (8 - c.addrW))

/-- R201: `g0 <- p[ARG_W-1:0]`, empty and taken as 0 when `ARG_W = 0`. -/
def payloadArg (c : Config) (p : Data11) : Data11 := BitVec.ofNat 11 (p.toNat % 2 ^ c.argW)

/-- R87, R200: `{a[ADDR_W-1:0], op[2:0], g[ARG_W-1:0]}`, the address in the high bits. -/
def payloadOf (c : Config) (a : Addr) (op : Opcode) (g : Data11) : Data11 :=
  BitVec.ofNat 11 ((a.toNat % 2 ^ c.addrW * 8 + op.toNat) * 2 ^ c.argW + g.toNat % 2 ^ c.argW)

/-- R90: the opcode map. -/
def commandOf (a : Addr) (op : Opcode) (g : Data11) : Instr :=
  match op.toNat with
  | 0 => .getdata ⟨a, g⟩
  | 1 => .setaddr a g
  | 2 => .shunton a g
  | 3 => .version ⟨a, g⟩
  | 4 => .reserved4 ⟨a, g⟩
  | 5 => .addrmode ⟨a, g⟩
  | 6 => .breakCmd ⟨a, g⟩
  | _ => .boot ⟨a, g⟩

/-- A one-word command takes no second word (R90). -/
def oneWord (i : Instr) (second : List Nat) : Decoded :=
  match second with
  | [] => .ok i
  | _ => .error .argCount

/-- R88, R90: a two-word command takes ARGW as its second word. -/
def twoWords (k : Data11 → Instr) (second : List Nat) : Decoded :=
  match second with
  | [] => .error .missingSecondWord
  | [g] => field 11 g fun g => .ok (k g)
  | _ => .error .argCount

/-- R88, R90, R201: a command's first payload, and `second`, what follows it: ARGW where the opcode is in `WIDE`,
nothing where it is not. -/
def decodeCommandWord (c : Config) (p : Data11) (second : List Nat) : Decoded :=
  if c.wide.contains (payloadOp c p) then twoWords (commandOf (payloadAddr c p) (payloadOp c p)) second
  else oneWord (commandOf (payloadAddr c p) (payloadOp c p) (payloadArg c p)) second

/-- A bit vector with its bits in the opposite order. -/
def flipBits (b : Byte) : Byte := b.reverse

/-- R84, R85: ten bits in time order, the first bit leftmost: `0dddddddd1` with the data least significant bit
first is FRAME10, ten zeros are BREAK10. -/
def decodeSlot (w : BitVec 10) : Decoded :=
  if w = 0 then .ok .break10
  else if w.getLsbD 9 = false ∧ w.getLsbD 0 = true then .ok (.frame10 (flipBits (w.extractLsb' 1 8)))
  else .error .unknownSlot

/-- R84: the ten bits of a frame, first bit leftmost. -/
def slotOf (b : Byte) : BitVec 10 := (0#1 ++ flipBits b) ++ 1#1

/-- The operand words of a request into an instruction, shapes not yet checked. -/
def decodeRaw (c : Config) (r : Request) : Decoded :=
  match r.head with
  | .cmdw =>
    match r.args with
    | [] => .error .argCount
    | p :: second => field 11 p fun p => decodeCommandWord c p second
  | .argw => oneField 11 .argw r.args
  | .cw16 => oneField 16 .cw16 r.args
  | .line10 =>
    match r.args with
    | [w] => field 10 w decodeSlot
    | _ => .error .argCount
  | .meas => byteFields .meas r.args
  | .ver => byteFields .ver r.args
  | .page => byteFields .page r.args
  | .hamEnc => oneField 11 .hamEnc r.args
  | .hamDec => oneField 16 .hamDec r.args
  | .polDetect => noArg .polDetect r.args
  | .edge => noArg .edge r.args
  | .tickRxStart => oneLevel .tickRxStart r.args
  | .tickRxData => oneLevel .tickRxData r.args
  | .tickRxStop => oneLevel .tickRxStop r.args
  | .tickTx => oneLevel .tickTx r.args
  | .rxStatus => noArg .rxStatus r.args
  | .rxRead => oneNat .rxRead r.args
  | .rxSetlen => oneNat .rxSetlen r.args
  | .rxAck => noArg .rxAck r.args
  | .txSend => byteFields .txSend r.args
  | .txStatus => noArg .txStatus r.args
  | .capture => oneField 8 .capture r.args
  | .mAvail => noArg .mAvail r.args
  | .mReadlast => oneNat .mReadlast r.args
  | .mSend =>
    match r.args with
    | [] => .error .argCount
    | k :: bs => levelField k fun k => fields 8 bs fun bs => .ok (.mSend k bs)
  | .txc => noArg .txc r.args
  | .mSetmap => oneLevel (fun v => .mSetmap (if v then .remapped else .default)) r.args
  | .crcInit => noArg .crcInit r.args
  | .crcUpdate => oneField 8 .crcUpdate r.args
  | .crcBlock => byteFields .crcBlock r.args
  | .cmdPack => commandFields .cmdPack r.args
  | .cmdUnpack => oneField 11 .cmdUnpack r.args
  | .cmdEncode => commandFields .cmdEncode r.args
  | .cmdDecode => byteFields .cmdDecode r.args
  | .cmdSend => commandFields .cmdSend r.args
  | .cmdRecv => noArg .cmdRecv r.args
  | .filter => commandFields .filter r.args
  | .forward => oneField 11 .forward r.args
  | .measBuild =>
    match r.args with
    | [v0, v1, v2, v3, v4] =>
      field 16 v0 fun v0 => field 16 v1 fun v1 => field 16 v2 fun v2 => field 16 v3 fun v3 => field 16 v4 fun v4 =>
        .ok (.measBuild v0 v1 v2 v3 v4)
    | _ => .error .argCount
  | .measCheck => byteFields .measCheck r.args
  | .verBuild =>
    match r.args with
    | [s0, s1, s2, s3, h0, h1, sn] =>
      fields 8 [s0, s1, s2, s3] fun sw => fields 8 [h0, h1] fun hw => field 32 sn fun sn => .ok (.verBuild sw hw sn)
    | _ => .error .argCount
  | .verCheck => byteFields .verCheck r.args
  | .pageBuild =>
    match r.args with
    | [] => .error .argCount
    | n :: ws => field 8 n fun n => fields 16 ws fun ws => .ok (.pageBuild n ws)
  | .pageCheck => byteFields .pageCheck r.args

/-- The checks `Instr.wf` and `Instr.fits` on what was read. -/
def checked (c : Config) (d : Decoded) : Decoded :=
  match d with
  | .ok i => if i.wf && i.fits c then .ok i else .error .illFormed
  | .error e => .error e

/-- The decoder, under a configuration's packing of commands (R8, R87): total; what it refuses it refuses by name. -/
def decode (c : Config) (r : Request) : Decoded := checked c (decodeRaw c r)

/-- The operand words of a list of fields. -/
def words {n : Nat} (bs : List (BitVec n)) : List Nat := bs.map BitVec.toNat

/-- R87, R88, R200: the payloads of a command as words. -/
def commandRequest (c : Config) (a : Addr) (op : Opcode) (g : Data11) : Request :=
  ⟨.cmdw, (payloadOf c a op g).toNat :: if c.wide.contains op then [g.toNat] else []⟩

/-- The encoder: the request of a well-formed instruction whose operands the configuration's fields hold. -/
def encode (c : Config) : Instr → Request
  | .getdata a => commandRequest c a.addr 0 a.arg
  | .setaddr a g => commandRequest c a 1 g
  | .shunton a g => commandRequest c a 2 g
  | .version a => commandRequest c a.addr 3 a.arg
  | .reserved4 a => commandRequest c a.addr 4 a.arg
  | .addrmode a => commandRequest c a.addr 5 a.arg
  | .breakCmd a => commandRequest c a.addr 6 a.arg
  | .boot a => commandRequest c a.addr 7 a.arg
  | .argw g => ⟨.argw, [g.toNat]⟩
  | .cw16 c => ⟨.cw16, [c.toNat]⟩
  | .frame10 b => ⟨.line10, [(slotOf b).toNat]⟩
  | .break10 => ⟨.line10, [0]⟩
  | .hamEnc d => ⟨.hamEnc, [d.toNat]⟩
  | .hamDec c => ⟨.hamDec, [c.toNat]⟩
  | .polDetect => ⟨.polDetect, []⟩
  | .edge => ⟨.edge, []⟩
  | .tickRxStart v => ⟨.tickRxStart, [v.toNat]⟩
  | .tickRxData v => ⟨.tickRxData, [v.toNat]⟩
  | .tickRxStop v => ⟨.tickRxStop, [v.toNat]⟩
  | .tickTx v => ⟨.tickTx, [v.toNat]⟩
  | .rxStatus => ⟨.rxStatus, []⟩
  | .rxRead i => ⟨.rxRead, [i]⟩
  | .rxSetlen n => ⟨.rxSetlen, [n]⟩
  | .rxAck => ⟨.rxAck, []⟩
  | .txSend bs => ⟨.txSend, words bs⟩
  | .txStatus => ⟨.txStatus, []⟩
  | .capture b => ⟨.capture, [b.toNat]⟩
  | .mAvail => ⟨.mAvail, []⟩
  | .mReadlast n => ⟨.mReadlast, [n]⟩
  | .mSend k bs => ⟨.mSend, k.toNat :: words bs⟩
  | .txc => ⟨.txc, []⟩
  | .mSetmap .default => ⟨.mSetmap, [0]⟩
  | .mSetmap .remapped => ⟨.mSetmap, [1]⟩
  | .crcInit => ⟨.crcInit, []⟩
  | .crcUpdate b => ⟨.crcUpdate, [b.toNat]⟩
  | .crcBlock bs => ⟨.crcBlock, words bs⟩
  | .cmdPack a op g => ⟨.cmdPack, [a.toNat, op.toNat, g.toNat]⟩
  | .cmdUnpack p => ⟨.cmdUnpack, [p.toNat]⟩
  | .cmdEncode a op g => ⟨.cmdEncode, [a.toNat, op.toNat, g.toNat]⟩
  | .cmdDecode bs => ⟨.cmdDecode, words bs⟩
  | .cmdSend a op g => ⟨.cmdSend, [a.toNat, op.toNat, g.toNat]⟩
  | .cmdRecv => ⟨.cmdRecv, []⟩
  | .filter a op g => ⟨.filter, [a.toNat, op.toNat, g.toNat]⟩
  | .forward s => ⟨.forward, [s.toNat]⟩
  | .measBuild v0 v1 v2 v3 v4 => ⟨.measBuild, [v0.toNat, v1.toNat, v2.toNat, v3.toNat, v4.toNat]⟩
  | .measCheck bs => ⟨.measCheck, words bs⟩
  | .verBuild sw hw sn => ⟨.verBuild, words sw ++ words hw ++ [sn.toNat]⟩
  | .verCheck bs => ⟨.verCheck, words bs⟩
  | .pageBuild n ws => ⟨.pageBuild, n.toNat :: words ws⟩
  | .pageCheck bs => ⟨.pageCheck, words bs⟩
  | .meas bs => ⟨.meas, words bs⟩
  | .ver bs => ⟨.ver, words bs⟩
  | .page bs => ⟨.page, words bs⟩

/-- The bytes of a number, lowest first: byte `i` is bits 8i+7..8i. -/
def lowBytes : Nat → Nat → List Nat
  | 0, _ => []
  | n + 1, w => w % 256 :: lowBytes n (w / 256)

/-- R90: does the opcode of this payload have a second word? -/
def hasSecondWord (c : Config) (p : Nat) : Bool := c.wide.contains (payloadOp c (BitVec.ofNat 11 p))

/-- The request of a table row's bits `w`, `nbits` of them (log 3). A command word whose opcode has a second word
gets the bits above, which are the ARGW payload. A bare 16-bit word does not say which format it is: read as CMDW
where bits 15..11 are zero, else as CW16. -/
def tableRequest (c : Config) (nbits w : Nat) : Option Request :=
  match nbits with
  | 10 => some ⟨.line10, [w]⟩
  | 11 => some ⟨.cmdw, if hasSecondWord c w then [w, 0] else [w]⟩
  | 16 =>
    if w < 2048 then some ⟨.cmdw, if hasSecondWord c w then [w, 0] else [w]⟩ else some ⟨.cw16, [w]⟩
  | 32 =>
    if hasSecondWord c (w % 65536) then some ⟨.cmdw, [w % 65536, w / 65536]⟩ else some ⟨.cmdw, [w]⟩
  | 96 => some ⟨.ver, lowBytes 12 w⟩
  | 104 => some ⟨.meas, lowBytes 13 w⟩
  | 536 => some ⟨.page, lowBytes 67 w⟩
  | _ => none

/-- The instruction the decoder reads from a table row's bits, under the spec's packing, which the table uses. -/
def decodeTableWord (nbits w : Nat) : Option Instr :=
  match tableRequest Config.default nbits w with
  | none => none
  | some r =>
    match decode Config.default r with
    | .ok i => some i
    | .error _ => none

end Sys2Proof
end

