-- ==== Sys2Proof/Machine/State.lean ====
section
/-! DEFINITION. The state of the block as 10_state.md gives it, as plain data, and its reset (R290 to R293). -/

namespace Sys2Proof
namespace Machine

/-- A buffer's contents: (offset, byte) pairs, offsets strictly rising. An unlisted offset is a byte nothing has
written since reset: it has no value of its own (log 10). -/
abbrev Memory := List Host.Cell

/-- R25: the receive state register. -/
inductive RxFsm where
  | waitEdge
  | waitStart
  | receiving
deriving DecidableEq, Repr

/-- R36: the direction of the master's line interface. -/
inductive MDir where
  | rx
  | tx
deriving DecidableEq, Repr

/-- R176: what the master's transmit agent has produced last in the transmission in progress. -/
inductive AgentPhase where
  /-- nothing yet -/
  | start
  /-- a break and the logical 1 after it -/
  | gap
  /-- a FRAME10 -/
  | frame
deriving DecidableEq, Repr

/-- R264: the exceptions an operation of the block raises, with the information R260 and R261 give them.
FramingError and ProtocolTimeout are raised by no operation (R262, R263). -/
inductive Exc where
  /-- DecodeError: the syndrome and the whole-word parity (R260) -/
  | decodeError (syn : BitVec 4) (par : Bool)
  /-- CrcMismatch: the computed and the stored CRC (R261) -/
  | crcMismatch (computed stored : Word16)
deriving DecidableEq, Repr

/-- What an operation returns to its host (R100, "arguments -> result"). -/
inductive Result where
  /-- nothing returned: no operation yet, or one without a result -/
  | none
  /-- an exception: the result of the operation that raised it (R274) -/
  | exception (e : Exc)
  /-- HAM.ENC, CRC.BLOCK: 16 bits -/
  | word (w : Word16)
  /-- HAM.DEC: (d, OK) -/
  | data (d : Data11)
  /-- POL.DETECT: pol -/
  | polarity (v : Bool)
  /-- RX.STATUS: (rx_count, frame_complete) -/
  | rxStatus (count : Nat) (complete : Bool)
  /-- RX.READ: a byte -/
  | byte (b : Byte)
  /-- TX.STATUS: tx_busy -/
  | txStatus (busy : Bool)
  /-- M.AVAIL: m_rx_since -/
  | avail (n : Nat)
  /-- M.READLAST, CMD.ENCODE, the build operations: bytes -/
  | bytes (bs : List Byte)
  /-- CMD.PACK: one or two payloads -/
  | payloads (ps : List Data11)
  /-- CMD.UNPACK: (a, op, g0) -/
  | unpacked (a : Addr) (op : Opcode) (g0 : Data11)
  /-- CMD.DECODE: (a, op, g) -/
  | command (a : Addr) (op : Opcode) (g : Data11)
  /-- CMD.DECODE: NeedMore -/
  | needMore
  /-- CMD.RECV, FILTER: NONE -/
  | noCommand
  /-- CMD.RECV, FILTER: a delivered command (a, op, g, bcast) -/
  | delivered (a : Addr) (op : Opcode) (g : Data11) (bcast : Bool)
  /-- MEAS.CHECK: (address, v0..v4) -/
  | meas (address : Byte) (values : List Word16)
  /-- VER.CHECK: (sw, hw, sn) -/
  | version (sw hw : List Byte) (sn : BitVec 32)
  /-- PAGE.CHECK: (n, w0..w31) -/
  | page (n : Byte) (ws : List Word16)
  /-- the failure "no frame" of the pseudo-operations of R101 -/
  | noFrame
deriving DecidableEq, Repr

/-- A stretch of the line as the master's transmit agent drives it: an electrical level, and for how many bit times
(R176: whole or fractional). -/
structure Span where
  level : Bool
  bitTimes : Rat
deriving DecidableEq, Repr

/-- One thing the world outside the block does next (R14, R20): the agenda is made of these (log 1). -/
inductive Input where
  /-- a host operation is invoked, or an event of R100 or a format of R80 arrives -/
  | request (r : Request)
  /-- the line's electrical level becomes `v` (R14 agent 1) -/
  | line (v : Bool)
  /-- one count of the module's timer passes (R31) -/
  | count
  /-- the master's transmit agent acts once (R176) -/
  | shift
  /-- the master's transmit agent lets the line rest at logical 1 for so many bit times more, whole or fractional (R176) -/
  | rest (bitTimes : Rat)
  /-- the module's host processor goes to sleep (R281) -/
  | sleep
deriving DecidableEq, Repr

/-- The state. Field by field R22 to R47 (the table of R49), then the model's own fields. -/
structure State where
  /-- the configuration (R8, R20); no step changes it -/
  cfg : Config
  /-- `pol` (R22) -/
  pol : Bool
  /-- `rx_acc` (R23) -/
  rxAcc : BitVec 8
  /-- `rx_bitcnt` (R24) -/
  rxBitcnt : Nat
  /-- `rx_fsm` (R25) -/
  rxFsm : RxFsm
  /-- `rx_count` (R26) -/
  rxCount : Nat
  /-- `rx_len` (R27) -/
  rxLen : Nat
  /-- `frame_complete` (R28) -/
  frameComplete : Bool
  /-- `RXBUF` (R29) -/
  rxbuf : Memory
  /-- `clk_run` (R30) -/
  clkRun : Bool
  /-- `clk_cnt` (R31) -/
  clkCnt : Nat
  /-- `TXBUF` (R32) -/
  txbuf : Memory
  /-- `tx_len` (R32) -/
  txLen : Nat
  /-- `tx_tick` (R33) -/
  txTick : Nat
  /-- `tx_busy` (R34) -/
  txBusy : Bool
  /-- `line_oe` (R35) -/
  lineOe : Bool
  /-- `line_out` (R35) -/
  lineOut : Bool
  /-- `m_dir` (R36) -/
  mDir : MDir
  /-- `RING` (R37) -/
  ring : Memory
  /-- `ring_wr` (R37) -/
  ringWr : Nat
  /-- `m_rx_since` (R38) -/
  mRxSince : Nat
  /-- `m_map` (R39) -/
  mMap : MMap
  /-- `m_txq` (R40) -/
  mTxq : List Byte
  /-- `m_brk` (R40) -/
  mBrk : Bool
  /-- `my_addr` (R43) -/
  myAddr : Addr
  /-- `crc` (R44) -/
  crc : Word16
  /-- `edge_pend` (R46) -/
  edgePend : Bool
  /-- `tick_pend` (R46) -/
  tickPend : Bool
  /-- `line_prev` (R47) -/
  linePrev : Bool
  /-- the module's host processor is asleep (R281, log 28) -/
  asleep : Bool
  /-- the model's own: POL.DETECT has run since reset and since the last wake (R281, R295, log 7) -/
  polDetected : Bool
  /-- the model's own: the electrical level on the line, what `sample()` of R11 returns (log 9) -/
  lineIn : Bool
  /-- the model's own: the slot of a FORWARD that SETADDR has requested (R212, R219, log 15) -/
  fwdReq : Option Data11
  /-- the model's own: what the master's transmit agent has driven since M.SEND, each electrical level with its duration,
  earliest first (R176, log 17) -/
  mWave : List Span
  /-- the model's own: what the transmit agent has produced last (R176, log 17) -/
  mPhase : AgentPhase
  /-- the model's own: what the last host operation returned (R100, log 4) -/
  result : Result
  /-- the model's own: what the world outside does next, first first (log 1) -/
  inputs : List Input
deriving DecidableEq, Repr

/-- Why the machine stops with a fault. -/
inductive Fault where
  /-- Raised by `step` when a raised TICK finds the state that R134 calls unreachable (WAIT_EDGE with `clk_run` set
  and no transmission, or `rx_bitcnt` above 8) or a stopped clock. Safe: it stops where the spec gives no effect. -/
  | tickUnreachable
deriving DecidableEq, Repr

/-- Why an instruction or an input is given no meaning (R265: "it refuses it"). All are safe: the machine stops. -/
inductive Refusal where
  /-- Raised by `exec` for an instruction whose meaning is not written yet. -/
  | notModelled (mnemonic : String)
  /-- Raised by `step`: the next request stands for no instruction. -/
  | undecodable (e : DecodeError)
  /-- Raised by a meaning whose operand has a length R100 does not allow (an ill-formed instruction). -/
  | badShape
  /-- Raised by an operation or event that the block's role does not have (R100, columns MOD and MAS). -/
  | notInRole
  /-- Raised by every module SER operation, by a format on the line and by a raised TICK while `pol` has no value: before
  POL.DETECT (R265, R295), and between a wake and the POL.DETECT after it (R281). -/
  | beforePolDetect
  /-- Raised by TX.SEND and FORWARD while transmitting or inside a reception (R148, R301). -/
  | notAtRest
  /-- Raised by an operation with a count or length out of its range (R141, R148, R172, R175, U4). -/
  | badCount
  /-- Raised by RX.READ at an offset outside the buffer (R140, U4). -/
  | badOffset
  /-- Raised by M.SEND, CMD.SEND and M.SETMAP while a transmission is in progress (R175, R178, R265). -/
  | sending
  /-- Raised by a TICK of a case that the state does not present, or while the clock is stopped (R134). -/
  | noSuchTick
  /-- Raised by a rest of the transmit agent outside the gap after a break and the time between two frames, and by one that
  lasts no time (R176). -/
  | noRest
  /-- Raised by a host operation while the host's processor sleeps (R281). -/
  | hostAsleep
  /-- Raised by a line level against the level this block drives: two drivers (R303, U3). -/
  | lineContention
deriving DecidableEq, Repr

/-- The registers whose value after reset the spec leaves unspecified (R291, R293), and the level the environment
happens to present. -/
structure Unspecified where
  pol : Bool
  rxAcc : BitVec 8
  clkCnt : Nat
  lineOut : Bool
  crc : Word16
  lineIn : Bool
deriving DecidableEq, Repr

/-- R290 to R293: the block after the power-on reset, for a configuration and for any values of what the spec
leaves unspecified. -/
def State.resetWith (c : Config) (u : Unspecified) : State where
  cfg := c
  pol := u.pol
  rxAcc := u.rxAcc
  rxBitcnt := 0
  rxFsm := .waitEdge
  rxCount := 0
  rxLen := 2
  frameComplete := false
  rxbuf := []
  clkRun := false
  clkCnt := u.clkCnt
  txbuf := []
  txLen := 0
  txTick := 0
  txBusy := false
  lineOe := false
  lineOut := u.lineOut
  mDir := .rx
  ring := []
  ringWr := 0
  mRxSince := 0
  mMap := .default
  mTxq := []
  mBrk := false
  myAddr := 0
  crc := u.crc
  edgePend := false
  tickPend := false
  linePrev := true
  asleep := false
  polDetected := false
  lineIn := u.lineIn
  fwdReq := none
  mWave := []
  mPhase := .start
  result := .none
  inputs := []

/-- The values the model names for what the spec leaves unspecified, the line undriven and so at rest (R86). DESIGN
CHOICE, unsafe (logs 7, 8, 9). -/
def Unspecified.named (c : Config) : Unspecified := ⟨false, 0, 0, false, 0, c.lineOne⟩

/-- The machine right after reset. -/
def State.reset : State := State.resetWith Config.default (Unspecified.named Config.default)

/-- What `exec` and `step` answer. -/
abbrev Answer := Host.Outcome State Fault Refusal

end Machine
end Sys2Proof
end

