-- ==== Sys2Proof/Machine/Flags.lean ====
section
/-! DEFINITION. The status computations: the two stored flags (R45), the syndrome and parity of a word (R111,
R114), the decoder's status (R115) and the enabling of EDGE and TICK (R132, R134). -/

namespace Sys2Proof
namespace Machine

/-- `xorall(v)`: the XOR of all bits of `v` (R10). -/
def xorall {n : Nat} (v : BitVec n) : Bool :=
  (List.range n).foldl (fun p i => p ^^ v.getLsbD i) false

/-- `SYN(c)` (R111), the bits in order 3..0 over the masks of R83. -/
def syndrome (c : Word16) : BitVec 4 :=
  BitVec.ofBool (xorall (c &&& 0x7F80#16)) ++ BitVec.ofBool (xorall (c &&& 0x7878#16)) ++
    BitVec.ofBool (xorall (c &&& 0x6666#16)) ++ BitVec.ofBool (xorall (c &&& 0x5555#16))

/-- `PAR(c)` (R114). -/
def wordParity (c : Word16) : Bool := xorall c

/-- R137: `frame_complete` after a stored byte brings the count to `n`. -/
def completeAfterStore (was : Bool) (n rxLen : Nat) : Bool := was || n == rxLen

/-- R132, R271: the condition under which an EDGE is enabled. -/
def State.edgeEnabled (s : State) : Bool := s.rxFsm == .waitEdge && !s.txBusy

/-- R132: a change of the line's logical level from 1 to 0. -/
def fallingEdge (before now : Bool) : Bool := before && !now

/-- R134: the four cases of a TICK. -/
inductive TickCase where
  | rxStart
  | rxData
  | rxStop
  | tx
deriving DecidableEq, Repr

/-- R134: which case a TICK is; none while the clock is stopped and in the state R134 calls unreachable. -/
def State.tickCase (s : State) : Option TickCase :=
  if s.clkRun then
    if s.txBusy then some .tx
    else
      match s.rxFsm with
      | .waitEdge => none
      | .waitStart => some .rxStart
      | .receiving =>
        if s.rxBitcnt < 8 then some .rxData else if s.rxBitcnt = 8 then some .rxStop else none
  else none

end Machine
end Sys2Proof
end

