-- ==== Sys2Proof/Machine/Operands.lean ====
section
/-! DEFINITION. The forms operands take: bits on the line (R12, R62, R84), bytes of words (R64 to R66), and the
fields of a command payload (R87, R201). -/

namespace Sys2Proof
namespace Machine

/-- R12: the logical value of an electrical level. -/
def State.logical (s : State) (v : Bool) : Bool := v == s.pol

/-- R12: the electrical level of a logical value. -/
def State.elec (s : State) (b : Bool) : Bool := if b then s.pol else !s.pol

/-- R39, D31: the electrical level of a logical value at the master. -/
def State.masterElec (s : State) (b : Bool) : Bool :=
  let one := match s.mMap with
    | .default => s.cfg.mapDefaultOne
    | .remapped => !s.cfg.mapDefaultOne
  if b then one else !one

/-- R12, D31: the logical value at the master of an electrical level: `m_map` plays the part of `pol` for both
directions (R178). -/
def State.masterLogical (s : State) (v : Bool) : Bool := v == s.masterElec true

/-- R86, R300: the electrical level that the other devices put on the line for a logical value. -/
def State.lineLevel (s : State) (b : Bool) : Bool := if b then s.cfg.lineOne else !s.cfg.lineOne

/-- R64, R65: the two bytes of a 16-bit word, the byte at the lower offset first. -/
def putWord (o : WordOrder) (w : Word16) : List Byte :=
  match o with
  | .little => [w.extractLsb' 0 8, w.extractLsb' 8 8]
  | .big => [w.extractLsb' 8 8, w.extractLsb' 0 8]

/-- R66: the 16-bit word of two bytes, the byte at the lower offset first. -/
def getWord (o : WordOrder) (b0 b1 : Byte) : Word16 :=
  match o with
  | .little => b1 ++ b0
  | .big => b0 ++ b1

/-- The bytes of a list of words, in order, without padding (R65). -/
def putWords (o : WordOrder) (ws : List Word16) : List Byte := ws.flatMap (putWord o)

/-- The words of a list of bytes, two bytes each. -/
def getWords (o : WordOrder) : List Byte → List Word16
  | b0 :: b1 :: bs => getWord o b0 b1 :: getWords o bs
  | _ => []

/-- R246: the serial number, lowest byte first. -/
def putSerial (sn : BitVec 32) : List Byte :=
  [sn.extractLsb' 0 8, sn.extractLsb' 8 8, sn.extractLsb' 16 8, sn.extractLsb' 24 8]

/-- R247: the serial number of its four bytes. -/
def getSerial : List Byte → BitVec 32
  | [b0, b1, b2, b3] => b3 ++ b2 ++ b1 ++ b0
  | _ => 0

/-- R62, R84: the logical bits of FRAME10 in time order. -/
def frameBits (b : Byte) : List Bool :=
  [false, b.getLsbD 0, b.getLsbD 1, b.getLsbD 2, b.getLsbD 3, b.getLsbD 4, b.getLsbD 5, b.getLsbD 6, b.getLsbD 7, true]

/-- R85: the logical bits of BREAK10 in time order. -/
def breakBits : List Bool := List.replicate 10 false

/-- R136: `rx_acc[n] <- b`. -/
def setBit (acc : Byte) (n : Nat) (b : Bool) : Byte :=
  let m : Byte := 1#8 <<< n
  if b then acc ||| m else acc &&& ~~~m

/-- R62, R84: the byte of the data bits of a slot: its bits 1 to 8 in time order, the least significant first. -/
def slotByte (bits : List Bool) : Byte :=
  (List.range 8).foldl (fun acc i => setBit acc i (bits.getD (i + 1) false)) 0

/-- Byte `i` of a list, for operations whose operand length is checked first. -/
def byteAt (bs : List Byte) (i : Nat) : Byte := bs.getD i 0

end Machine
end Sys2Proof
end

