-- ==== Sys2Proof/Machine/Ops.lean ====
section
/-! DEFINITION. The named operations over buffers, registers and the line that the meanings share, and the
raising of an exception. -/

namespace Sys2Proof
namespace Machine

/-! ### Buffers (R60, R67) -/

/-- The canonical form: offsets strictly rising. An unlisted offset has no value, so no entry can equal it. -/
def Memory.wf : Memory → Bool
  | [] => true
  | [_] => true
  | c :: d :: m => decide (c.1 < d.1) && Memory.wf (d :: m)

/-- Every listed offset lies inside a buffer of `n` bytes. -/
def Memory.within (n : Nat) (m : Memory) : Bool := m.all fun c => decide (c.1 < n)

/-- The content of one cell; none where nothing has been written. -/
def Memory.cell (m : Memory) (a : Nat) : Option Byte :=
  match m with
  | [] => none
  | c :: m => if c.1 = a then some c.2 else Memory.cell m a

/-- `MemWrite(S:a, 1, b)` (R11): one byte, in canonical form. -/
def Memory.write (m : Memory) (a : Nat) (b : Byte) : Memory :=
  match m with
  | [] => [(a, b)]
  | c :: m =>
    if a < c.1 then (a, b) :: c :: m
    else if a = c.1 then (a, b) :: m
    else c :: Memory.write m a b

/-- `MemWrite(S:a, n, bs)` (R11). -/
def Memory.writeList (m : Memory) (a : Nat) : List Byte → Memory
  | [] => m
  | b :: bs => Memory.writeList (Memory.write m a b) (a + 1) bs

/-- The buffer of a space. -/
def State.buffer (s : State) : Space → Memory
  | .rxbuf => s.rxbuf
  | .txbuf => s.txbuf
  | .ring => s.ring

/-- `MemRead(S:a, 1)` (R11): what is written, or a free value where nothing is (U1). -/
def State.readByte (s : State) (sp : Space) (a : Nat) : Byte :=
  match (s.buffer sp).cell a with
  | some b => b
  | none => Config.unspecifiedByte sp a none

/-- `MemRead(S:0, n)` (R11). -/
def State.readBytes (s : State) (sp : Space) (n : Nat) : List Byte := (List.range n).map (s.readByte sp)

/-! ### Answers -/

/-- Return a result to the host; nothing else changes. -/
def ret (r : Result) (s : State) : Answer := .next { s with result := r }

/-- TAKING AN EXCEPTION (R274): it saves no state and transfers control nowhere; it is the result of the operation
that raised it, returned to the host. There is no return from one (R275): the host simply continues. -/
def raiseExc (e : Exc) (s : State) : Answer := ret (.exception e) s

/-- R264: the source's taxonomy number of an exception. -/
def Exc.taxonomy : Exc → Nat
  | .decodeError _ _ => 2
  | .crcMismatch _ _ => 3

/-- R100: an operation that only the MODULE role has. -/
def needModule (s : State) (k : Answer) : Answer :=
  if s.cfg.role = .moduleRole then k else .refused .notInRole

/-- R100: an operation that only the MASTER role has. -/
def needMaster (s : State) (k : Answer) : Answer :=
  if s.cfg.role = .masterRole then k else .refused .notInRole

/-- R265, R295: a module SER operation, refused before POL.DETECT. -/
def needSer (s : State) (k : Answer) : Answer :=
  needModule s (if s.polDetected then k else .refused .beforePolDetect)

/-! ### The line (R11, R12, R132) -/

/-- R281: the wake of the host's processor. The block keeps all its state but `pol`, which the host detects again: until
then it has no value (log 28). -/
def wakeHost (s : State) : State := if s.asleep then { s with asleep := false, polDetected := false } else s

/-- R281, R132: any change of the line's level, in either direction, in any block state and whoever makes it, wakes a
sleeping host. Its `pol` goes at the end of the event that changes the level (R11, log 28). -/
def wakeOnChange (old new : Bool) (s : State) : State := if new = old then s else wakeHost s

/-- The line presents electrical level `v`. R132: the edge detector compares the logical level with `line_prev`,
raises an EDGE on an enabled change from 1 to 0, and sets `line_prev`. Before POL.DETECT there is no logical level
(R295) and the detector does nothing. It stays armed while the host sleeps (R281, D29). -/
def detectEdge (v : Bool) (s : State) : State :=
  if s.polDetected then
    { s with
      lineIn := v
      linePrev := s.logical v
      edgePend := s.edgePend || (fallingEdge s.linePrev (s.logical v) && s.edgeEnabled) }
  else { s with lineIn := v }

/-- The line presents electrical level `v`: to the edge detector, and to the wake of a sleeping host (R132, R281). -/
def presentLevel (v : Bool) (s : State) : State :=
  wakeOnChange s.lineIn v (detectEdge v s)

/-- `drive(v)` (R11). The line then carries `v` (one driver, R303), the detector follows it (log 9), and a change of the
level wakes a sleeping host (R281). -/
def driveLine (v : Bool) (s : State) : State :=
  wakeOnChange s.lineIn v { s with lineOe := true, lineOut := v, lineIn := v, linePrev := s.logical v }

/-- `release()` (R11). The undriven line rests at the level that is logical 1 on it (R86, R150). Where `pol` is not that
level (R300) the logical level falls from 1 to 0 here: `line_prev` follows it and no EDGE is raised. DESIGN CHOICE
(log 30): the spec does not say which `tx_busy` the detector sees in the event that clears it. A change of the level wakes
a sleeping host (R281). -/
def releaseLine (s : State) : State :=
  wakeOnChange s.lineIn (s.lineLevel true)
    { s with lineOe := false, lineIn := s.lineLevel true, linePrev := s.logical (s.lineLevel true) }

/-! ### The module's events (R133 to R137, R150) -/

/-- R133: the EDGE handler; its start clears `edge_pend` (R271). Its interrupt wakes a sleeping host (R281). -/
def takeEdge (s : State) : State :=
  if s.edgeEnabled then
    { wakeHost s with edgePend := false, rxFsm := .waitStart, clkCnt := s.cfg.bitTicks / 2, clkRun := true }
  else { wakeHost s with edgePend := false }

/-- What every TICK does first: its start clears `tick_pend` (R271) and `clk_cnt` is reloaded (R134). -/
def beginTick (s : State) : State := { s with tickPend := false, clkCnt := s.cfg.bitTicks }

/-- R135: the start-bit sample, taken and not tested. -/
def startSample (v : Bool) (s : State) : State :=
  { presentLevel v (beginTick s) with rxAcc := 0, rxBitcnt := 0, rxFsm := .receiving }

/-- R136: a data-bit sample. -/
def dataSample (v : Bool) (s : State) : State :=
  { presentLevel v (beginTick s) with
    rxAcc := setBit s.rxAcc s.rxBitcnt (s.logical v), rxBitcnt := s.rxBitcnt + 1 }

/-- R137: a byte lands in RXBUF at the current offset if within bounds; else it is dropped. -/
def storeReceived (b : Byte) (s : State) : State :=
  if s.rxCount < s.cfg.rxbufLen then
    { s with
      rxbuf := s.rxbuf.write s.rxCount b
      rxCount := s.rxCount + 1
      frameComplete := completeAfterStore s.frameComplete (s.rxCount + 1) s.rxLen }
  else s

/-- R137: the disposal of a slot with stop sample `b`: a break, or a byte. -/
def disposeSlot (b : Bool) (s : State) : State :=
  if s.rxAcc = 0 ∧ b = false then { s with rxCount := 0, frameComplete := false }
  else storeReceived s.rxAcc s

/-- R137: the stop-bit sample. -/
def stopSample (v : Bool) (s : State) : State :=
  { disposeSlot (s.logical v) (presentLevel v (beginTick s)) with rxFsm := .waitEdge, clkRun := false }

/-- `TXBIT(t)` (R149). -/
def State.txBit (s : State) (t : Nat) : Bool :=
  if t % 10 = 0 then false
  else if t % 10 ≤ 8 then (s.readByte .txbuf (t / 10)).getLsbD (t % 10 - 1)
  else true

/-- R150: the number of transmit ticks of one transmission. -/
def State.txTotal (s : State) : Nat := 10 * s.txLen + s.cfg.turnaround

/-- R150: what a transmit tick does to the line and the flags. The change of level that a release makes under the wrong
`pol` raises no EDGE, although `tx_busy` is cleared together with it. DESIGN CHOICE (log 30). -/
def transmitAction (s : State) : State :=
  if s.txTick < 10 * s.txLen then driveLine (s.elec (s.txBit s.txTick)) s
  else if s.txTick < s.txTotal - 1 then driveLine (s.elec true) s
  else { releaseLine s with txBusy := false, clkRun := false }

/-- R150: a transmit tick. The level of the line is ignored (R134). -/
def transmitTick (s : State) : State :=
  { transmitAction (beginTick s) with txTick := s.txTick + 1 }

/-- R134: a TICK of the given case with sampled level `v`. -/
def runTick (c : TickCase) (v : Bool) (s : State) : State :=
  match c with
  | .rxStart => startSample v s
  | .rxData => dataSample v s
  | .rxStop => stopSample v s
  | .tx => transmitTick s

/-- R134: a TICK as an instruction: refused unless the state presents that case with the clock running. -/
def tickOf (c : TickCase) (v : Bool) (s : State) : Answer :=
  needSer s (if s.tickCase = some c then .next (runTick c v s) else .refused .noSuchTick)

/-- R148: TX.SEND and the transmission part of FORWARD (R219). -/
def startTransmission (bs : List Byte) (s : State) : Answer :=
  if s.txBusy = true ∨ s.rxFsm ≠ .waitEdge then .refused .notAtRest
  else if bs.length = 0 ∨ s.cfg.txbufLen < bs.length then .refused .badCount
  else
    .next { s with
      txbuf := s.txbuf.writeList 0 bs
      txLen := bs.length
      txTick := 0
      txBusy := true
      clkCnt := s.cfg.bitTicks
      clkRun := true
      result := .none }

/-! ### Formats on the line, module side (R84, R86, R131; log 13) -/

/-- One bit time of the line at its logical level `b` (log 13): the edge detector sees the level at once, an EDGE it raises is
taken (R272), and the bit clock, if it runs, fires once in the middle of the bit (R138). -/
def bitTime (b : Bool) (s : State) : State :=
  let s1 := presentLevel (s.lineLevel b) s
  let s2 := if s1.edgePend then takeEdge s1 else s1
  match s2.tickCase with
  | none => s2
  | some c => runTick c (s.lineLevel b) s2

/-- The line carries the logical levels `bits`, one a bit time. -/
def waveform (bits : List Bool) (s : State) : State := bits.foldl (fun s b => bitTime b s) s

/-- A byte slot on the line: the line is at logical 1 before it (R86), then its ten bits. -/
def slotOnLine (bits : List Bool) (s : State) : State := waveform bits (presentLevel (s.lineLevel true) s)

/-! ### The master's ring and transmit agent (R171, R172, R176) -/

/-- R171: one byte into the ring. -/
def captureByte (b : Byte) (s : State) : State :=
  { s with
    ring := s.ring.write s.ringWr b
    ringWr := (s.ringWr + 1) % s.cfg.ringLen
    mRxSince := min (s.mRxSince + 1) s.cfg.ringLen }

/-- R170, R171: CAPTURE has an effect only while `m_dir == RX`. -/
def captureIfReceiving (b : Byte) (s : State) : State :=
  match s.mDir with
  | .rx => captureByte b s
  | .tx => s

/-- R172: the newest `n` bytes, oldest first. -/
def State.newest (s : State) (n : Nat) : List Byte :=
  (List.range n).map fun i => s.readByte .ring ((s.ringWr + s.cfg.ringLen - n + i) % s.cfg.ringLen)

/-- R175: M.SEND, and CMD.SEND over it (R203). -/
def startSending (brk : Bool) (bs : List Byte) (s : State) : Answer :=
  if s.mDir = .tx then .refused .sending
  else if (brk = false ∧ bs.length = 0) ∨ s.cfg.ringLen < bs.length then .refused .badCount
  else .next { s with mDir := .tx, mBrk := brk, mTxq := bs, mWave := [], mPhase := .start, result := .none }

/-- R176 (1): the logical levels of the break and the gap after it. -/
def State.breakWave (s : State) : List Bool :=
  List.replicate s.cfg.breakBits false ++ List.replicate s.cfg.breakGap true

/-- The logical level `b` for `t` bit times, as the transmit agent drives it. -/
def State.span (s : State) (t : Rat) (b : Bool) : Span := ⟨s.masterElec b, t⟩

/-- The transmit agent drives logical levels on the line, each for one bit time. -/
def driveWave (bits : List Bool) (s : State) : State := { s with mWave := s.mWave ++ bits.map (s.span 1) }

/-- The transmit agent holds the line at logical 1 for `t` bit times (R176). -/
def driveRest (t : Rat) (s : State) : State := { s with mWave := s.mWave ++ [s.span t true] }

/-- R177: transmission complete. -/
def completeSending (s : State) : State := { s with mDir := .rx, mRxSince := 0, mPhase := .start }

/-- R176 (1): the break, if one is still to be sent. -/
def sendBreak (s : State) : State :=
  if s.mBrk then { driveWave s.breakWave s with mBrk := false, mPhase := .gap } else s

/-- R176 (2): every byte of the queue, one FRAME10 each. -/
def sendQueue (s : State) : State := { driveWave (s.mTxq.flatMap frameBits) s with mTxq := [] }

/-- R176: one action of the transmit agent: the break, or one byte, or the event TXC. -/
def agentMove (s : State) : State :=
  match s.mDir with
  | .rx => s
  | .tx =>
    if s.mBrk then sendBreak s
    else
      match s.mTxq with
      | b :: q => { driveWave (frameBits b) s with mTxq := q, mPhase := .frame }
      | [] => completeSending s

/-- R176: the line may rest in the gap after a break and between two frames: not before the break or the first frame,
and not after the last frame, when the event is TXC. -/
def State.restAllowed (s : State) : Bool :=
  s.mDir == .tx &&
    match s.mPhase with
    | .start => false
    | .gap => true
    | .frame => !s.mTxq.isEmpty

/-- R176: the transmit agent lets the line rest at logical 1 for `t` bit times more, whole or fractional. To rest for none
is to give no such input. -/
def agentRest (t : Rat) (s : State) : Answer :=
  if s.restAllowed = true ∧ 0 < t then .next (driveRest t s) else .refused .noRest

/-! ### A format in front of the block's receiver -/

/-- R170, R178, R300: the byte a master reads from a slot whose logical bits on the line are `bits`: the electrical
levels of its data bits through `m_map`. Under the wrong setting it is the complement (log 29), which
HAM.DEC does not always refuse (log 31). -/
def State.masterReads (s : State) (bits : List Bool) : Byte :=
  slotByte (bits.map fun b => s.masterLogical (s.lineLevel b))

/-- A byte of the line in front of the receiver. Module: one FRAME10 sampled bit by bit (R131); nothing is received
while `tx_busy` (R34, R148). Master: one CAPTURE of what it reads (R170). -/
def receiveByte (s : State) (b : Byte) : State :=
  match s.cfg.role with
  | .moduleRole => if s.txBusy then s else slotOnLine (frameBits b) s
  | .masterRole => captureIfReceiving (s.masterReads (frameBits b)) s

/-- A break in front of the receiver (R85; at the master one byte of eight data bit times at logical 0, R170). -/
def receiveBreak (s : State) : State :=
  match s.cfg.role with
  | .moduleRole => if s.txBusy then s else slotOnLine breakBits s
  | .masterRole => captureIfReceiving (s.masterReads breakBits) s

/-- Bytes in front of the receiver, in order (R241). -/
def receiveBytes (bs : List Byte) (s : State) : State := bs.foldl receiveByte s

/-- A format on the line: at a module it is refused before POL.DETECT (R295), and where it would wake the host and lose
`pol` before its data bits are sampled (R281, log 28). -/
def onLine (s : State) (k : State) : Answer :=
  match s.cfg.role with
  | .moduleRole => if s.polDetected = true ∧ s.asleep = false then .next k else .refused .beforePolDetect
  | .masterRole => .next k

/-! ### Inputs that are no instruction -/

/-- The line's level changes (R132). Against the level this block drives it is a second driver: refused (U3). -/
def lineInput (v : Bool) (s : State) : Answer :=
  if s.lineOe = true ∧ v ≠ s.lineOut then .refused .lineContention else .next (presentLevel v s)

/-- R281: the module's host goes to sleep, in any block state. That the host is idle, and for how long, is its own: the
threshold is not given, so any moment will do. DESIGN CHOICE (log 28). -/
def hostSleeps (s : State) : Answer := needModule s (.next { s with asleep := true })

/-- One timer count (R31, R271): TICK is raised when `clk_cnt` reaches 0. -/
def timerCount (s : State) : State :=
  if s.clkRun then
    { s with clkCnt := s.clkCnt - 1, tickPend := s.tickPend || decide (s.clkCnt ≤ 1) }
  else s

end Machine
end Sys2Proof
end

