-- ==== Sys2Proof/Machine/Crc.lean ====
section
/-! DEFINITION. The CRC-16/XMODEM engine (43_crc.md). -/

namespace Sys2Proof
namespace Machine

/-- R192: one of the eight steps. -/
def crcShift (x : Word16) : Word16 := if x.getLsbD 15 then (x <<< 1) ^^^ 0x1021#16 else x <<< 1

/-- R192: `n` steps. -/
def crcSteps : Nat → Word16 → Word16
  | 0, x => x
  | n + 1, x => crcSteps n (crcShift x)

/-- CRC.UPDATE as a function of the accumulator (R192): the byte enters at the top, then eight steps. -/
def crcUpdate (crc : Word16) (b : Byte) : Word16 := crcSteps 8 (crc ^^^ (b.setWidth 16 <<< 8))

/-- CRC.BLOCK as a function of the bytes (R193). -/
def crcBlock (bs : List Byte) : Word16 := bs.foldl crcUpdate 0

/-- CRC.INIT (R191). -/
def execCrcInit (s : State) : Answer := ret .none { s with crc := 0 }

/-- CRC.UPDATE b (R192). -/
def execCrcUpdate (b : Byte) (s : State) : Answer := ret .none { s with crc := crcUpdate s.crc b }

/-- CRC.BLOCK b0, ..., bn-1 -> 16 bits; `crc` is left holding the result (R193). -/
def execCrcBlock (bs : List Byte) (s : State) : Answer := ret (.word (crcBlock bs)) { s with crc := crcBlock bs }

end Machine
end Sys2Proof
end

