-- ==== Sys2Proof/Machine/Block.lean ====
section
/-! DEFINITION. Unit FRM, the CRC-trailed blocks (45_reply.md). -/

namespace Sys2Proof
namespace Machine

/-- A body and its CRC trailer (R93 to R95, R242). -/
def withTrailer (o : WordOrder) (body : List Byte) : List Byte := body ++ putWord o (crcBlock body)

/-- R242: the stored trailer of a block of `n` bytes: its last two. -/
def storedTrailer (o : WordOrder) (n : Nat) (bs : List Byte) : Word16 := getWord o (byteAt bs (n - 2)) (byteAt bs (n - 1))

/-- A build operation (R242, R244, R246, R248): the block, and `crc` left holding the body's CRC. -/
def buildBlock (body : List Byte) (s : State) : Answer :=
  ret (.bytes (withTrailer s.cfg.wordOrder body)) { s with crc := crcBlock body }

/-- A check operation (R242): compare the CRC of the body of an `n`-byte block with its trailer. -/
def checkBlock (n : Nat) (bs : List Byte) (r : Result) (s : State) : Answer :=
  if bs.length = n then
    if crcBlock (bs.take (n - 2)) = storedTrailer s.cfg.wordOrder n bs then
      ret r { s with crc := crcBlock (bs.take (n - 2)) }
    else
      raiseExc (.crcMismatch (crcBlock (bs.take (n - 2))) (storedTrailer s.cfg.wordOrder n bs))
        { s with crc := crcBlock (bs.take (n - 2)) }
  else .refused .badShape

/-- MEAS.BUILD v0, ..., v4 (R244). -/
def execMeasBuild (v0 v1 v2 v3 v4 : Word16) (s : State) : Answer :=
  needModule s (buildBlock (s.myAddr :: putWords s.cfg.wordOrder [v0, v1, v2, v3, v4]) s)

/-- MEAS.CHECK B (R245). -/
def execMeasCheck (bs : List Byte) (s : State) : Answer :=
  needMaster s
    (checkBlock Config.measLen bs
      (.meas (byteAt bs 0) (getWords s.cfg.wordOrder ((bs.drop 1).take (2 * Config.channels)))) s)

/-- VER.BUILD sw, hw, sn (R246). -/
def execVerBuild (sw hw : List Byte) (sn : BitVec 32) (s : State) : Answer :=
  needModule s
    (if sw.length = 4 ∧ hw.length = 2 then buildBlock (sw ++ hw ++ putSerial sn) s else .refused .badShape)

/-- VER.CHECK B (R247). -/
def execVerCheck (bs : List Byte) (s : State) : Answer :=
  needMaster s
    (checkBlock Config.verLen bs
      (.version (bs.take 4) ((bs.drop 4).take 2) (getSerial ((bs.drop 6).take 4))) s)

/-- PAGE.BUILD n, w0, ..., w31 (R248). -/
def execPageBuild (n : Byte) (ws : List Word16) (s : State) : Answer :=
  needMaster s
    (if ws.length = Config.pageWords then buildBlock (n :: putWords s.cfg.wordOrder ws) s else .refused .badShape)

/-- PAGE.CHECK B (R249). -/
def execPageCheck (bs : List Byte) (s : State) : Answer :=
  needModule s
    (checkBlock Config.pageLen bs
      (.page (byteAt bs 0) (getWords s.cfg.wordOrder ((bs.drop 1).take (2 * Config.pageWords)))) s)

end Machine
end Sys2Proof
end

