-- ==== Sys2Proof/Machine/Hamming.lean ====
section
/-! DEFINITION. Unit HAM (40_hamming.md): the Hamming(16,11) encoder and decoder. -/

namespace Sys2Proof
namespace Machine

/-- R112, the data bits placed and every parity bit 0: `d[10-j]` at position `DATA_POS[j]` (R82). -/
def placeData (d : Data11) : Word16 :=
  (0#1 ++ BitVec.ofBool (d.getLsbD 0) ++ BitVec.ofBool (d.getLsbD 1) ++ BitVec.ofBool (d.getLsbD 2) ++
    BitVec.ofBool (d.getLsbD 3) ++ BitVec.ofBool (d.getLsbD 4) ++ BitVec.ofBool (d.getLsbD 5) ++
    BitVec.ofBool (d.getLsbD 6)) ++
  (0#1 ++ BitVec.ofBool (d.getLsbD 7) ++ BitVec.ofBool (d.getLsbD 8) ++ BitVec.ofBool (d.getLsbD 9) ++
    0#1 ++ BitVec.ofBool (d.getLsbD 10) ++ 0#1 ++ 0#1)

/-- A word with `b` in bit `k` and zeros elsewhere. -/
def bitWord (k : Nat) (b : Bool) : Word16 := if b then 1#16 <<< k else 0

/-- R112: each parity bit `c[2^k - 1]`, 0 before, is set to `SYN(c)[k]`. -/
def placeParity (c : Word16) : Word16 :=
  let s := syndrome c
  c ||| bitWord 0 (s.getLsbD 0) ||| bitWord 1 (s.getLsbD 1) ||| bitWord 3 (s.getLsbD 2) ||| bitWord 7 (s.getLsbD 3)

/-- HAM.ENC (R112): data, parity, then the overall parity over the other 15 bits. -/
def hamEncode (d : Data11) : Word16 :=
  let c := placeParity (placeData d)
  c ||| bitWord 15 (xorall c)

/-- `EXTRACT(c)` (R116). -/
def extractData (c : Word16) : Data11 :=
  BitVec.ofBool (c.getLsbD 2) ++ BitVec.ofBool (c.getLsbD 4) ++ BitVec.ofBool (c.getLsbD 5) ++
  BitVec.ofBool (c.getLsbD 6) ++ BitVec.ofBool (c.getLsbD 8) ++ BitVec.ofBool (c.getLsbD 9) ++
  BitVec.ofBool (c.getLsbD 10) ++ BitVec.ofBool (c.getLsbD 11) ++ BitVec.ofBool (c.getLsbD 12) ++
  BitVec.ofBool (c.getLsbD 13) ++ BitVec.ofBool (c.getLsbD 14)

/-- R115: the flip of the bit that the syndrome names. -/
def flipAt (c : Word16) (s : BitVec 4) : Word16 := c ^^^ (1#16 <<< (s.toNat - 1))

/-- HAM.DEC (R115, R117): a data value with status OK, or DecodeError without data. The complement of a codeword is a
codeword (V4: 0xFFFF is one) and decodes as R115 says, to the complemented data, where R178 and R300 say that inverted
frames fail their Hamming checks. DEDUCED: R115 is followed (log 31). -/
def hamDecode (c : Word16) : Except Exc Data11 :=
  let s := syndrome c
  let p := wordParity c
  if s = 0 ∧ p = false then .ok (extractData c)
  else if s ≠ 0 ∧ p = true then .ok (extractData (flipAt c s))
  else .error (.decodeError s p)

/-- HAM.ENC d -> c. -/
def execHamEnc (d : Data11) (s : State) : Answer := ret (.word (hamEncode d)) s

/-- HAM.DEC c -> (d, OK) or DecodeError. -/
def execHamDec (c : Word16) (s : State) : Answer :=
  match hamDecode c with
  | .ok d => ret (.data d) s
  | .error e => raiseExc e s

end Machine
end Sys2Proof
end

