-- ==== Sys2Proof/Machine/Command.lean ====
section
/-! DEFINITION. Unit FRM, commands (44_command.md). -/

namespace Sys2Proof
namespace Machine

/-! ### Packing (R200 to R204) -/

/-- CMD.PACK (R200): one payload, or two for an opcode in `WIDE`. -/
def packCommand (c : Config) (a : Addr) (op : Opcode) (g : Data11) : List Data11 :=
  if c.wide.contains op then [payloadOf c a op g, g] else [payloadOf c a op g]

/-- CMD.ENCODE (R202): each payload Hamming-encoded, two bytes each. -/
def encodeCommand (c : Config) (a : Addr) (op : Opcode) (g : Data11) : List Byte :=
  (packCommand c a op g).flatMap fun p => putWord c.wordOrder (hamEncode p)

/-- R204: the answers of CMD.DECODE. -/
inductive CmdAnswer where
  | command (a : Addr) (op : Opcode) (g : Data11)
  | needMore
  | failed (e : Exc)
deriving DecidableEq, Repr

/-- R204: the second word of a two-word command. -/
def decodeSecond (c : Config) (a : Addr) (op : Opcode) (rest : List Byte) : CmdAnswer :=
  match rest with
  | b2 :: b3 :: _ =>
    match hamDecode (getWord c.wordOrder b2 b3) with
    | .error e => .failed e
    | .ok g => .command a op g
  | _ => .needMore

/-- CMD.DECODE (R204), on two bytes and what follows them. -/
def decodeWords (c : Config) (b0 b1 : Byte) (rest : List Byte) : CmdAnswer :=
  match hamDecode (getWord c.wordOrder b0 b1) with
  | .error e => .failed e
  | .ok p =>
    if c.wide.contains (payloadOp c p) then decodeSecond c (payloadAddr c p) (payloadOp c p) rest
    else .command (payloadAddr c p) (payloadOp c p) (payloadArg c p)

/-- CMD.DECODE of a byte list; none for a list too short to hold a word. -/
def decodeCommand (c : Config) (bs : List Byte) : Option CmdAnswer :=
  match bs with
  | b0 :: b1 :: rest => some (decodeWords c b0 b1 rest)
  | _ => none

/-! ### Filter and delivery (R207, R208) -/

/-- FILTER (R207): the `bcast` of a command that passes, none for one that does not. -/
def State.filterCommand (s : State) (a : Addr) (op : Opcode) : Option Bool :=
  if op = 4 then none
  else if a = s.cfg.bcast then some true
  else if a ≠ 0 ∧ a = s.myAddr then some false
  else none

/-- R212, block: an unaddressed module claims the slot and requests FORWARD of the next. One request is held: a claim
replaces one still unserved. DESIGN CHOICE (log 15): the spec is silent on it. -/
def claimSlot (g : Data11) (s : State) : State :=
  if s.myAddr = 0 ∧ 1 ≤ g.toNat ∧ g.toNat ≤ Config.addrMax then
    { s with myAddr := g.setWidth 8, fwdReq := some (g + 1) }
  else s

/-- R215, block: the claimed address is discarded. A FORWARD still requested stays requested. DESIGN CHOICE (log 15): the
spec is silent on it. -/
def dropAddress (s : State) : State := { s with myAddr := 0 }

/-- The block's own part of a delivered command (R211 to R217). -/
def commandEffect (op : Opcode) (g : Data11) (s : State) : State :=
  if op = 1 then claimSlot g s else if op = 5 then dropAddress s else s

/-- A decoded command meets the filter (R207). If it passes, the block does its own part and the command is handed
to the host (R208); if not, nothing changes and NONE is returned. -/
def offerCommand (a : Addr) (op : Opcode) (g : Data11) (effect : State → State) (s : State) : Answer :=
  match s.filterCommand a op with
  | none => ret .noCommand s
  | some bc => ret (.delivered a op g bc) (effect s)

/-! ### The command words (R211 to R218) -/

/-- GETDATA (R211): delivered; no change in the block. -/
def execGetdata (a : CommandFields) (s : State) : Answer := needModule s (offerCommand a.addr 0 a.arg id s)

/-- SETADDR (R212). -/
def execSetaddr (a : Addr) (slot : Data11) (s : State) : Answer :=
  needModule s (offerCommand a 1 slot (claimSlot slot) s)

/-- SHUNTON (R213): the mask is delivered unread. -/
def execShunton (a : Addr) (mask : Data11) (s : State) : Answer := needModule s (offerCommand a 2 mask id s)

/-- VERSION (R214). -/
def execVersion (a : CommandFields) (s : State) : Answer := needModule s (offerCommand a.addr 3 a.arg id s)

/-- The reserved opcode (R218): dropped by the filter, whatever its address. -/
def execReserved4 (a : CommandFields) (s : State) : Answer := needModule s (offerCommand a.addr 4 a.arg id s)

/-- ADDRMODE (R215). -/
def execAddrmode (a : CommandFields) (s : State) : Answer := needModule s (offerCommand a.addr 5 a.arg dropAddress s)

/-- BREAK (R216): delivered, no further effect. -/
def execBreakCmd (a : CommandFields) (s : State) : Answer := needModule s (offerCommand a.addr 6 a.arg id s)

/-- BOOT (R217): delivered; the jump is the host's. -/
def execBoot (a : CommandFields) (s : State) : Answer := needModule s (offerCommand a.addr 7 a.arg id s)

/-! ### The operations -/

/-- CMD.PACK a, op, g (R200). -/
def execCmdPack (a : Addr) (op : Opcode) (g : Data11) (s : State) : Answer :=
  ret (.payloads (packCommand s.cfg a op g)) s

/-- CMD.UNPACK p (R201). -/
def execCmdUnpack (p : Data11) (s : State) : Answer :=
  ret (.unpacked (payloadAddr s.cfg p) (payloadOp s.cfg p) (payloadArg s.cfg p)) s

/-- CMD.ENCODE a, op, g (R202). -/
def execCmdEncode (a : Addr) (op : Opcode) (g : Data11) (s : State) : Answer :=
  ret (.bytes (encodeCommand s.cfg a op g)) s

/-- CMD.DECODE B (R204). -/
def execCmdDecode (bs : List Byte) (s : State) : Answer :=
  if bs.length = 2 ∨ bs.length = 4 then
    match decodeCommand s.cfg bs with
    | some (.command a op g) => ret (.command a op g) s
    | some .needMore => ret .needMore s
    | some (.failed e) => raiseExc e s
    | none => .refused .badShape
  else .refused .badShape

/-- CMD.SEND a, op, g (R203): a break, then the command's bytes. -/
def execCmdSend (a : Addr) (op : Opcode) (g : Data11) (s : State) : Answer :=
  needMaster s (startSending true (encodeCommand s.cfg a op g) s)

/-- R206: nothing of the command is kept, and the next one starts from its first word. -/
def takeFrame (n : Nat) (s : State) : State := { s with rxLen := n, frameComplete := false }

/-- CMD.RECV (R206). DecodeError is absorbed here (R260). -/
def execCmdRecv (s : State) : Answer :=
  needModule s
    (if s.rxCount < 2 then ret .noCommand s
    else if s.rxLen = 2 ∧ s.frameComplete = false then ret .noCommand s
    else
      match decodeCommand s.cfg (s.readBytes .rxbuf (if s.rxCount < 4 then 2 else 4)) with
      | some (.command a op g) => offerCommand a op g (commandEffect op g) (takeFrame 2 s)
      | some .needMore => ret .noCommand (takeFrame 4 s)
      | _ => ret .noCommand (takeFrame 2 s))

/-- FILTER a, op, g (R207), the step of the framer on its own: its result, and no state change. -/
def execFilter (a : Addr) (op : Opcode) (g : Data11) (s : State) : Answer :=
  needModule s
    (match s.filterCommand a op with
    | none => ret .noCommand s
    | some bc => ret (.delivered a op g bc) s)

/-- FORWARD s (R219): TX.SEND of the SETADDR broadcast for slot `s`; a request for that slot is served. -/
def execForward (slot : Data11) (s : State) : Answer :=
  needSer s
    (startTransmission (encodeCommand s.cfg s.cfg.bcast 1 slot)
      (if s.fwdReq = some slot then { s with fwdReq := none } else s))

end Machine
end Sys2Proof
end

