-- ==== Sys2Proof/Machine/LineFormat.lean ====
section
/-! DEFINITION. The formats of R80 as they arrive on the line (log 13): what the block's receiver makes of them. -/

namespace Sys2Proof
namespace Machine

/-- The two frames of a codeword, by the byte order of R64. -/
def receiveCodeword (c : Word16) (s : State) : State := receiveBytes (putWord s.cfg.wordOrder c) s

/-- ARGW (R88, R89): the second codeword of a command, HAM.ENC of the argument, as two frames. -/
def execArgw (g : Data11) (s : State) : Answer := onLine s (receiveCodeword (hamEncode g) s)

/-- CW16 (R81, R64): any 16-bit word as two frames. -/
def execCw16 (c : Word16) (s : State) : Answer := onLine s (receiveCodeword c s)

/-- FRAME10 (R84): one byte. -/
def execFrame10 (b : Byte) (s : State) : Answer := onLine s (receiveByte s b)

/-- BREAK10 (R85). -/
def execBreak10 (s : State) : Answer := onLine s (receiveBreak s)

/-- MEAS (R93, R241): the block's bytes, one FRAME10 each. -/
def execMeas (bs : List Byte) (s : State) : Answer :=
  if bs.length = Config.measLen then onLine s (receiveBytes bs s) else .refused .badShape

/-- VER (R94, R241). -/
def execVer (bs : List Byte) (s : State) : Answer :=
  if bs.length = Config.verLen then onLine s (receiveBytes bs s) else .refused .badShape

/-- PAGE (R95, R241). -/
def execPage (bs : List Byte) (s : State) : Answer :=
  if bs.length = Config.pageLen then onLine s (receiveBytes bs s) else .refused .badShape

end Machine
end Sys2Proof
end

