-- ==== Sys2Proof/Machine/SerialMaster.lean ====
section
/-! DEFINITION. Unit SER, master side (42_serial_master.md). -/

namespace Sys2Proof
namespace Machine

/-- CAPTURE b (R171). -/
def execCapture (b : Byte) (s : State) : Answer := needMaster s (.next (captureIfReceiving b s))

/-- M.AVAIL -> m_rx_since (R173). -/
def execMAvail (s : State) : Answer := needMaster s (ret (.avail s.mRxSince) s)

/-- M.READLAST n -> n bytes (R172); refused outside 1..RING_LEN (U4). -/
def execMReadlast (n : Nat) (s : State) : Answer :=
  needMaster s (if 1 ≤ n ∧ n ≤ s.cfg.ringLen then ret (.bytes (s.newest n)) s else .refused .badCount)

/-- M.SEND brk, b0, ..., bn-1 (R175). -/
def execMSend (brk : Bool) (bs : List Byte) (s : State) : Answer := needMaster s (startSending brk bs s)

/-- TXC (R177). The event says that everything of the transmission has been sent (R176 (3)), so whatever the
transmit agent still held has gone out by then (log 16). -/
def execTxc (s : State) : Answer :=
  needMaster s
    (match s.mDir with
    | .rx => .next (completeSending s)
    | .tx => .next (completeSending (sendQueue (sendBreak s))))

/-- M.SETMAP m (R178); precondition `m_dir == RX`. -/
def execMSetmap (m : MMap) (s : State) : Answer :=
  needMaster s (if s.mDir = .tx then .refused .sending else ret .none { s with mMap := m })

end Machine
end Sys2Proof
end

