-- ==== Sys2Proof/Machine/SerialModule.lean ====
section
/-! DEFINITION. Unit SER, module side (41_serial_module.md). -/

namespace Sys2Proof
namespace Machine

/-- POL.DETECT (R130): `pol <- sample(); line_prev <- 1`. -/
def execPolDetect (s : State) : Answer :=
  needModule s (.next { s with pol := s.lineIn, linePrev := true, polDetected := true, result := .polarity s.lineIn })

/-- EDGE (R133). -/
def execEdge (s : State) : Answer := needSer s (.next (takeEdge s))

/-- TICK in WAIT_START (R135). -/
def execTickRxStart (v : Bool) (s : State) : Answer := tickOf .rxStart v s

/-- TICK in RECEIVING before the eighth data bit (R136). -/
def execTickRxData (v : Bool) (s : State) : Answer := tickOf .rxData v s

/-- TICK in RECEIVING after the eighth data bit (R137). -/
def execTickRxStop (v : Bool) (s : State) : Answer := tickOf .rxStop v s

/-- TICK while `tx_busy` (R150). -/
def execTickTx (v : Bool) (s : State) : Answer := tickOf .tx v s

/-- RX.STATUS -> (rx_count, frame_complete) (R140). -/
def execRxStatus (s : State) : Answer := needSer s (ret (.rxStatus s.rxCount s.frameComplete) s)

/-- R140: the byte RX.READ returns: what is received below `rx_count`, an unspecified byte from there on. -/
def State.rxByte (s : State) (i : Nat) : Byte :=
  if i < s.rxCount then s.readByte .rxbuf i else Config.unspecifiedByte .rxbuf i (s.rxbuf.cell i)

/-- RX.READ i -> byte (R140); refused outside the buffer (U4). -/
def execRxRead (i : Nat) (s : State) : Answer :=
  needSer s (if i < s.cfg.rxbufLen then ret (.byte (s.rxByte i)) s else .refused .badOffset)

/-- RX.SETLEN n (R141); refused outside 1..RXBUF_LEN (U4). -/
def execRxSetlen (n : Nat) (s : State) : Answer :=
  needSer s (if 1 ≤ n ∧ n ≤ s.cfg.rxbufLen then ret .none { s with rxLen := n } else .refused .badCount)

/-- RX.ACK (R142). -/
def execRxAck (s : State) : Answer := needSer s (ret .none { s with frameComplete := false })

/-- TX.SEND b0, ..., bn-1 (R148). -/
def execTxSend (bs : List Byte) (s : State) : Answer := needSer s (startTransmission bs s)

/-- TX.STATUS -> tx_busy (R152). -/
def execTxStatus (s : State) : Answer := needSer s (ret (.txStatus s.txBusy) s)

end Machine
end Sys2Proof
end

