-- ==== Sys2Proof/Machine/Dispatch.lean ====
section
/-! DEFINITION. The dispatch: one arm per constructor of `Instr`. -/

namespace Sys2Proof
namespace Machine

def exec (i : Instr) (s : State) : Host.Outcome State Fault Refusal :=
  match i with
  | .getdata a => Sys2Proof.Machine.execGetdata a s
  | .setaddr a slot => Sys2Proof.Machine.execSetaddr a slot s
  | .shunton a mask => Sys2Proof.Machine.execShunton a mask s
  | .version a => Sys2Proof.Machine.execVersion a s
  | .reserved4 a => Sys2Proof.Machine.execReserved4 a s
  | .addrmode a => Sys2Proof.Machine.execAddrmode a s
  | .breakCmd a => Sys2Proof.Machine.execBreakCmd a s
  | .boot a => Sys2Proof.Machine.execBoot a s
  | .argw g => Sys2Proof.Machine.execArgw g s
  | .cw16 c => Sys2Proof.Machine.execCw16 c s
  | .frame10 b => Sys2Proof.Machine.execFrame10 b s
  | .break10 => Sys2Proof.Machine.execBreak10 s
  | .hamEnc d => Sys2Proof.Machine.execHamEnc d s
  | .hamDec c => Sys2Proof.Machine.execHamDec c s
  | .polDetect => Sys2Proof.Machine.execPolDetect s
  | .edge => Sys2Proof.Machine.execEdge s
  | .tickRxStart v => Sys2Proof.Machine.execTickRxStart v s
  | .tickRxData v => Sys2Proof.Machine.execTickRxData v s
  | .tickRxStop v => Sys2Proof.Machine.execTickRxStop v s
  | .tickTx v => Sys2Proof.Machine.execTickTx v s
  | .rxStatus => Sys2Proof.Machine.execRxStatus s
  | .rxRead off => Sys2Proof.Machine.execRxRead off s
  | .rxSetlen n => Sys2Proof.Machine.execRxSetlen n s
  | .rxAck => Sys2Proof.Machine.execRxAck s
  | .txSend bs => Sys2Proof.Machine.execTxSend bs s
  | .txStatus => Sys2Proof.Machine.execTxStatus s
  | .capture b => Sys2Proof.Machine.execCapture b s
  | .mAvail => Sys2Proof.Machine.execMAvail s
  | .mReadlast n => Sys2Proof.Machine.execMReadlast n s
  | .mSend brk bs => Sys2Proof.Machine.execMSend brk bs s
  | .txc => Sys2Proof.Machine.execTxc s
  | .mSetmap m => Sys2Proof.Machine.execMSetmap m s
  | .crcInit => Sys2Proof.Machine.execCrcInit s
  | .crcUpdate b => Sys2Proof.Machine.execCrcUpdate b s
  | .crcBlock bs => Sys2Proof.Machine.execCrcBlock bs s
  | .cmdPack a op g => Sys2Proof.Machine.execCmdPack a op g s
  | .cmdUnpack p => Sys2Proof.Machine.execCmdUnpack p s
  | .cmdEncode a op g => Sys2Proof.Machine.execCmdEncode a op g s
  | .cmdDecode bs => Sys2Proof.Machine.execCmdDecode bs s
  | .cmdSend a op g => Sys2Proof.Machine.execCmdSend a op g s
  | .cmdRecv => Sys2Proof.Machine.execCmdRecv s
  | .filter a op g => Sys2Proof.Machine.execFilter a op g s
  | .forward slot => Sys2Proof.Machine.execForward slot s
  | .measBuild v0 v1 v2 v3 v4 => Sys2Proof.Machine.execMeasBuild v0 v1 v2 v3 v4 s
  | .measCheck bs => Sys2Proof.Machine.execMeasCheck bs s
  | .verBuild sw hw sn => Sys2Proof.Machine.execVerBuild sw hw sn s
  | .verCheck bs => Sys2Proof.Machine.execVerCheck bs s
  | .pageBuild n ws => Sys2Proof.Machine.execPageBuild n ws s
  | .pageCheck bs => Sys2Proof.Machine.execPageCheck bs s
  | .meas bs => Sys2Proof.Machine.execMeas bs s
  | .ver bs => Sys2Proof.Machine.execVer bs s
  | .page bs => Sys2Proof.Machine.execPage bs s

end Machine
end Sys2Proof
end

