-- ==== Sys2Proof/Machine/Agenda.lean ====
section
/-! DEFINITION. What the machine does with the next input of its agenda, with a raised interrupt, and how a
request is placed there (log 1). -/

namespace Sys2Proof
namespace Machine

/-- R13, R80: the events and the formats on the line, which arrive whatever the host does. Every other instruction is
invoked by the host (R7). -/
def fromLine : Instr → Bool
  | .argw _ | .cw16 _ | .frame10 _ | .break10 | .edge | .tickRxStart _ | .tickRxData _ | .tickRxStop _ | .tickTx _
  | .capture _ | .txc | .meas _ | .ver _ | .page _ => true
  | .getdata _ | .setaddr _ _ | .shunton _ _ | .version _ | .reserved4 _ | .addrmode _ | .breakCmd _
  | .boot _ | .hamEnc _ | .hamDec _ | .polDetect | .rxStatus | .rxRead _ | .rxSetlen _ | .rxAck | .txSend _
  | .txStatus | .mAvail | .mReadlast _ | .mSend _ _ | .mSetmap _ | .crcInit | .crcUpdate _ | .crcBlock _
  | .cmdPack _ _ _ | .cmdUnpack _ | .cmdEncode _ _ _ | .cmdDecode _ | .cmdSend _ _ _ | .cmdRecv | .filter _ _ _
  | .forward _ | .measBuild _ _ _ _ _ | .measCheck _ | .verBuild _ _ _ | .verCheck _ | .pageBuild _ _
  | .pageCheck _ => false

/-- A request: the instruction it decodes to under the block's packing (R8) is run; one that decodes to none is refused
by name, and so is a host operation while the host sleeps (R281). -/
def runRequest (r : Request) (s : State) : Answer :=
  match decode s.cfg r with
  | .ok i => if s.asleep = true ∧ fromLine i = false then .refused .hostAsleep else exec i s
  | .error e => .refused (.undecodable e)

/-- One input. Timer counts concern the module, a move of the transmit agent the master; where the other role is meant
nothing happens. -/
def runInput (i : Input) (s : State) : Answer :=
  match i with
  | .request r => runRequest r s
  | .line v => lineInput v s
  | .count => .next (timerCount s)
  | .shift => .next (agentMove s)
  | .rest t => agentRest t s
  | .sleep => hostSleeps s

/-- A raised TICK runs with the level on the line (R134, R271). Between a wake and POL.DETECT that level has no logical
value, and the TICK is refused (R281, R295). -/
def serveTick (s : State) : Answer :=
  match s.tickCase with
  | some c => if s.polDetected then .next (runTick c s.lineIn s) else .refused .beforePolDetect
  | none => .fault .tickUnreachable

/-- R272: a raised interrupt runs before the next input. With nothing raised and nothing to come, the block stays
as it is (it is driven by events, R13). -/
def stepOnce (s : State) : Answer :=
  if s.edgePend then .next (takeEdge s)
  else if s.tickPend then serveTick s
  else
    match s.inputs with
    | [] => .next s
    | i :: rest => runInput i { s with inputs := rest }

/-- The request of a table word under a configuration's packing; where the table word has no request, a request that is
refused. -/
def fetchRequest (c : Config) (nbits w : Nat) : Request :=
  match tableRequest c nbits w with
  | some r => r
  | none => ⟨.cmdw, []⟩

/-- The request put first, with nothing raised before it and the host awake to invoke it. -/
def placeRequest (r : Request) (s : State) : State :=
  { s with edgePend := false, tickPend := false, asleep := false, inputs := .request r :: s.inputs }

end Machine
end Sys2Proof
end

