-- ==== Sys2Proof/Machine/Step.lean ====
section
/-! DEFINITION. One step of the machine. -/

namespace Sys2Proof
namespace Machine

/-- One event of the block's total order (R13, R72). -/
def step (s : State) : Host.Outcome State Fault Refusal := stepOnce s

/-- The state whose very next step runs the table word's instruction (log 1, log 3). -/
def State.withFetchWord (s : State) (nbits w : Nat) : State := placeRequest (fetchRequest s.cfg nbits w) s

end Machine
end Sys2Proof
end

