-- ==== Sys2Proof/Laws/State.lean ====
section
/-! SUPPORT. One lemma per field per named update of the state: what an update leaves alone, and what it sets. -/

namespace Sys2Proof
namespace Machine

@[simp] theorem beginTick_cfg (s : State) : (beginTick s).cfg = s.cfg := rfl
@[simp] theorem beginTick_pol (s : State) : (beginTick s).pol = s.pol := rfl
@[simp] theorem beginTick_rxAcc (s : State) : (beginTick s).rxAcc = s.rxAcc := rfl
@[simp] theorem beginTick_rxBitcnt (s : State) : (beginTick s).rxBitcnt = s.rxBitcnt := rfl
@[simp] theorem beginTick_rxFsm (s : State) : (beginTick s).rxFsm = s.rxFsm := rfl
@[simp] theorem beginTick_rxCount (s : State) : (beginTick s).rxCount = s.rxCount := rfl
@[simp] theorem beginTick_rxLen (s : State) : (beginTick s).rxLen = s.rxLen := rfl
@[simp] theorem beginTick_frameComplete (s : State) : (beginTick s).frameComplete = s.frameComplete := rfl
@[simp] theorem beginTick_rxbuf (s : State) : (beginTick s).rxbuf = s.rxbuf := rfl
@[simp] theorem beginTick_clkRun (s : State) : (beginTick s).clkRun = s.clkRun := rfl
@[simp] theorem beginTick_clkCnt (s : State) : (beginTick s).clkCnt = s.cfg.bitTicks := rfl
@[simp] theorem beginTick_txbuf (s : State) : (beginTick s).txbuf = s.txbuf := rfl
@[simp] theorem beginTick_txLen (s : State) : (beginTick s).txLen = s.txLen := rfl
@[simp] theorem beginTick_txTick (s : State) : (beginTick s).txTick = s.txTick := rfl
@[simp] theorem beginTick_txBusy (s : State) : (beginTick s).txBusy = s.txBusy := rfl
@[simp] theorem beginTick_lineOe (s : State) : (beginTick s).lineOe = s.lineOe := rfl
@[simp] theorem beginTick_lineOut (s : State) : (beginTick s).lineOut = s.lineOut := rfl
@[simp] theorem beginTick_mDir (s : State) : (beginTick s).mDir = s.mDir := rfl
@[simp] theorem beginTick_ring (s : State) : (beginTick s).ring = s.ring := rfl
@[simp] theorem beginTick_ringWr (s : State) : (beginTick s).ringWr = s.ringWr := rfl
@[simp] theorem beginTick_mRxSince (s : State) : (beginTick s).mRxSince = s.mRxSince := rfl
@[simp] theorem beginTick_mMap (s : State) : (beginTick s).mMap = s.mMap := rfl
@[simp] theorem beginTick_mTxq (s : State) : (beginTick s).mTxq = s.mTxq := rfl
@[simp] theorem beginTick_mBrk (s : State) : (beginTick s).mBrk = s.mBrk := rfl
@[simp] theorem beginTick_myAddr (s : State) : (beginTick s).myAddr = s.myAddr := rfl
@[simp] theorem beginTick_crc (s : State) : (beginTick s).crc = s.crc := rfl
@[simp] theorem beginTick_edgePend (s : State) : (beginTick s).edgePend = s.edgePend := rfl
@[simp] theorem beginTick_tickPend (s : State) : (beginTick s).tickPend = false := rfl
@[simp] theorem beginTick_linePrev (s : State) : (beginTick s).linePrev = s.linePrev := rfl
@[simp] theorem beginTick_polDetected (s : State) : (beginTick s).polDetected = s.polDetected := rfl
@[simp] theorem beginTick_lineIn (s : State) : (beginTick s).lineIn = s.lineIn := rfl
@[simp] theorem beginTick_fwdReq (s : State) : (beginTick s).fwdReq = s.fwdReq := rfl
@[simp] theorem beginTick_mWave (s : State) : (beginTick s).mWave = s.mWave := rfl
@[simp] theorem beginTick_result (s : State) : (beginTick s).result = s.result := rfl
@[simp] theorem beginTick_inputs (s : State) : (beginTick s).inputs = s.inputs := rfl
@[simp] theorem beginTick_asleep (s : State) : (beginTick s).asleep = s.asleep := rfl
@[simp] theorem beginTick_mPhase (s : State) : (beginTick s).mPhase = s.mPhase := rfl

@[simp] theorem captureByte_cfg (b : Byte) (s : State) : (captureByte b s).cfg = s.cfg := rfl
@[simp] theorem captureByte_pol (b : Byte) (s : State) : (captureByte b s).pol = s.pol := rfl
@[simp] theorem captureByte_rxAcc (b : Byte) (s : State) : (captureByte b s).rxAcc = s.rxAcc := rfl
@[simp] theorem captureByte_rxBitcnt (b : Byte) (s : State) : (captureByte b s).rxBitcnt = s.rxBitcnt := rfl
@[simp] theorem captureByte_rxFsm (b : Byte) (s : State) : (captureByte b s).rxFsm = s.rxFsm := rfl
@[simp] theorem captureByte_rxCount (b : Byte) (s : State) : (captureByte b s).rxCount = s.rxCount := rfl
@[simp] theorem captureByte_rxLen (b : Byte) (s : State) : (captureByte b s).rxLen = s.rxLen := rfl
@[simp] theorem captureByte_frameComplete (b : Byte) (s : State) : (captureByte b s).frameComplete = s.frameComplete := rfl
@[simp] theorem captureByte_rxbuf (b : Byte) (s : State) : (captureByte b s).rxbuf = s.rxbuf := rfl
@[simp] theorem captureByte_clkRun (b : Byte) (s : State) : (captureByte b s).clkRun = s.clkRun := rfl
@[simp] theorem captureByte_clkCnt (b : Byte) (s : State) : (captureByte b s).clkCnt = s.clkCnt := rfl
@[simp] theorem captureByte_txbuf (b : Byte) (s : State) : (captureByte b s).txbuf = s.txbuf := rfl
@[simp] theorem captureByte_txLen (b : Byte) (s : State) : (captureByte b s).txLen = s.txLen := rfl
@[simp] theorem captureByte_txTick (b : Byte) (s : State) : (captureByte b s).txTick = s.txTick := rfl
@[simp] theorem captureByte_txBusy (b : Byte) (s : State) : (captureByte b s).txBusy = s.txBusy := rfl
@[simp] theorem captureByte_lineOe (b : Byte) (s : State) : (captureByte b s).lineOe = s.lineOe := rfl
@[simp] theorem captureByte_lineOut (b : Byte) (s : State) : (captureByte b s).lineOut = s.lineOut := rfl
@[simp] theorem captureByte_mDir (b : Byte) (s : State) : (captureByte b s).mDir = s.mDir := rfl
@[simp] theorem captureByte_ring (b : Byte) (s : State) : (captureByte b s).ring = s.ring.write s.ringWr b := rfl
@[simp] theorem captureByte_ringWr (b : Byte) (s : State) : (captureByte b s).ringWr = (s.ringWr + 1) % s.cfg.ringLen := rfl
@[simp] theorem captureByte_mRxSince (b : Byte) (s : State) : (captureByte b s).mRxSince = min (s.mRxSince + 1) s.cfg.ringLen := rfl
@[simp] theorem captureByte_mMap (b : Byte) (s : State) : (captureByte b s).mMap = s.mMap := rfl
@[simp] theorem captureByte_mTxq (b : Byte) (s : State) : (captureByte b s).mTxq = s.mTxq := rfl
@[simp] theorem captureByte_mBrk (b : Byte) (s : State) : (captureByte b s).mBrk = s.mBrk := rfl
@[simp] theorem captureByte_myAddr (b : Byte) (s : State) : (captureByte b s).myAddr = s.myAddr := rfl
@[simp] theorem captureByte_crc (b : Byte) (s : State) : (captureByte b s).crc = s.crc := rfl
@[simp] theorem captureByte_edgePend (b : Byte) (s : State) : (captureByte b s).edgePend = s.edgePend := rfl
@[simp] theorem captureByte_tickPend (b : Byte) (s : State) : (captureByte b s).tickPend = s.tickPend := rfl
@[simp] theorem captureByte_linePrev (b : Byte) (s : State) : (captureByte b s).linePrev = s.linePrev := rfl
@[simp] theorem captureByte_polDetected (b : Byte) (s : State) : (captureByte b s).polDetected = s.polDetected := rfl
@[simp] theorem captureByte_lineIn (b : Byte) (s : State) : (captureByte b s).lineIn = s.lineIn := rfl
@[simp] theorem captureByte_fwdReq (b : Byte) (s : State) : (captureByte b s).fwdReq = s.fwdReq := rfl
@[simp] theorem captureByte_mWave (b : Byte) (s : State) : (captureByte b s).mWave = s.mWave := rfl
@[simp] theorem captureByte_result (b : Byte) (s : State) : (captureByte b s).result = s.result := rfl
@[simp] theorem captureByte_inputs (b : Byte) (s : State) : (captureByte b s).inputs = s.inputs := rfl
@[simp] theorem captureByte_asleep (b : Byte) (s : State) : (captureByte b s).asleep = s.asleep := rfl
@[simp] theorem captureByte_mPhase (b : Byte) (s : State) : (captureByte b s).mPhase = s.mPhase := rfl

@[simp] theorem driveWave_cfg (bits : List Bool) (s : State) : (driveWave bits s).cfg = s.cfg := rfl
@[simp] theorem driveWave_pol (bits : List Bool) (s : State) : (driveWave bits s).pol = s.pol := rfl
@[simp] theorem driveWave_rxAcc (bits : List Bool) (s : State) : (driveWave bits s).rxAcc = s.rxAcc := rfl
@[simp] theorem driveWave_rxBitcnt (bits : List Bool) (s : State) : (driveWave bits s).rxBitcnt = s.rxBitcnt := rfl
@[simp] theorem driveWave_rxFsm (bits : List Bool) (s : State) : (driveWave bits s).rxFsm = s.rxFsm := rfl
@[simp] theorem driveWave_rxCount (bits : List Bool) (s : State) : (driveWave bits s).rxCount = s.rxCount := rfl
@[simp] theorem driveWave_rxLen (bits : List Bool) (s : State) : (driveWave bits s).rxLen = s.rxLen := rfl
@[simp] theorem driveWave_frameComplete (bits : List Bool) (s : State) : (driveWave bits s).frameComplete = s.frameComplete := rfl
@[simp] theorem driveWave_rxbuf (bits : List Bool) (s : State) : (driveWave bits s).rxbuf = s.rxbuf := rfl
@[simp] theorem driveWave_clkRun (bits : List Bool) (s : State) : (driveWave bits s).clkRun = s.clkRun := rfl
@[simp] theorem driveWave_clkCnt (bits : List Bool) (s : State) : (driveWave bits s).clkCnt = s.clkCnt := rfl
@[simp] theorem driveWave_txbuf (bits : List Bool) (s : State) : (driveWave bits s).txbuf = s.txbuf := rfl
@[simp] theorem driveWave_txLen (bits : List Bool) (s : State) : (driveWave bits s).txLen = s.txLen := rfl
@[simp] theorem driveWave_txTick (bits : List Bool) (s : State) : (driveWave bits s).txTick = s.txTick := rfl
@[simp] theorem driveWave_txBusy (bits : List Bool) (s : State) : (driveWave bits s).txBusy = s.txBusy := rfl
@[simp] theorem driveWave_lineOe (bits : List Bool) (s : State) : (driveWave bits s).lineOe = s.lineOe := rfl
@[simp] theorem driveWave_lineOut (bits : List Bool) (s : State) : (driveWave bits s).lineOut = s.lineOut := rfl
@[simp] theorem driveWave_mDir (bits : List Bool) (s : State) : (driveWave bits s).mDir = s.mDir := rfl
@[simp] theorem driveWave_ring (bits : List Bool) (s : State) : (driveWave bits s).ring = s.ring := rfl
@[simp] theorem driveWave_ringWr (bits : List Bool) (s : State) : (driveWave bits s).ringWr = s.ringWr := rfl
@[simp] theorem driveWave_mRxSince (bits : List Bool) (s : State) : (driveWave bits s).mRxSince = s.mRxSince := rfl
@[simp] theorem driveWave_mMap (bits : List Bool) (s : State) : (driveWave bits s).mMap = s.mMap := rfl
@[simp] theorem driveWave_mTxq (bits : List Bool) (s : State) : (driveWave bits s).mTxq = s.mTxq := rfl
@[simp] theorem driveWave_mBrk (bits : List Bool) (s : State) : (driveWave bits s).mBrk = s.mBrk := rfl
@[simp] theorem driveWave_myAddr (bits : List Bool) (s : State) : (driveWave bits s).myAddr = s.myAddr := rfl
@[simp] theorem driveWave_crc (bits : List Bool) (s : State) : (driveWave bits s).crc = s.crc := rfl
@[simp] theorem driveWave_edgePend (bits : List Bool) (s : State) : (driveWave bits s).edgePend = s.edgePend := rfl
@[simp] theorem driveWave_tickPend (bits : List Bool) (s : State) : (driveWave bits s).tickPend = s.tickPend := rfl
@[simp] theorem driveWave_linePrev (bits : List Bool) (s : State) : (driveWave bits s).linePrev = s.linePrev := rfl
@[simp] theorem driveWave_polDetected (bits : List Bool) (s : State) : (driveWave bits s).polDetected = s.polDetected := rfl
@[simp] theorem driveWave_lineIn (bits : List Bool) (s : State) : (driveWave bits s).lineIn = s.lineIn := rfl
@[simp] theorem driveWave_fwdReq (bits : List Bool) (s : State) : (driveWave bits s).fwdReq = s.fwdReq := rfl
@[simp] theorem driveWave_mWave (bits : List Bool) (s : State) : (driveWave bits s).mWave = s.mWave ++ bits.map (s.span 1) := rfl
@[simp] theorem driveWave_result (bits : List Bool) (s : State) : (driveWave bits s).result = s.result := rfl
@[simp] theorem driveWave_inputs (bits : List Bool) (s : State) : (driveWave bits s).inputs = s.inputs := rfl
@[simp] theorem driveWave_asleep (bits : List Bool) (s : State) : (driveWave bits s).asleep = s.asleep := rfl
@[simp] theorem driveWave_mPhase (bits : List Bool) (s : State) : (driveWave bits s).mPhase = s.mPhase := rfl

@[simp] theorem driveRest_cfg (d : Rat) (s : State) : (driveRest d s).cfg = s.cfg := rfl
@[simp] theorem driveRest_pol (d : Rat) (s : State) : (driveRest d s).pol = s.pol := rfl
@[simp] theorem driveRest_rxAcc (d : Rat) (s : State) : (driveRest d s).rxAcc = s.rxAcc := rfl
@[simp] theorem driveRest_rxBitcnt (d : Rat) (s : State) : (driveRest d s).rxBitcnt = s.rxBitcnt := rfl
@[simp] theorem driveRest_rxFsm (d : Rat) (s : State) : (driveRest d s).rxFsm = s.rxFsm := rfl
@[simp] theorem driveRest_rxCount (d : Rat) (s : State) : (driveRest d s).rxCount = s.rxCount := rfl
@[simp] theorem driveRest_rxLen (d : Rat) (s : State) : (driveRest d s).rxLen = s.rxLen := rfl
@[simp] theorem driveRest_frameComplete (d : Rat) (s : State) : (driveRest d s).frameComplete = s.frameComplete := rfl
@[simp] theorem driveRest_rxbuf (d : Rat) (s : State) : (driveRest d s).rxbuf = s.rxbuf := rfl
@[simp] theorem driveRest_clkRun (d : Rat) (s : State) : (driveRest d s).clkRun = s.clkRun := rfl
@[simp] theorem driveRest_clkCnt (d : Rat) (s : State) : (driveRest d s).clkCnt = s.clkCnt := rfl
@[simp] theorem driveRest_txbuf (d : Rat) (s : State) : (driveRest d s).txbuf = s.txbuf := rfl
@[simp] theorem driveRest_txLen (d : Rat) (s : State) : (driveRest d s).txLen = s.txLen := rfl
@[simp] theorem driveRest_txTick (d : Rat) (s : State) : (driveRest d s).txTick = s.txTick := rfl
@[simp] theorem driveRest_txBusy (d : Rat) (s : State) : (driveRest d s).txBusy = s.txBusy := rfl
@[simp] theorem driveRest_lineOe (d : Rat) (s : State) : (driveRest d s).lineOe = s.lineOe := rfl
@[simp] theorem driveRest_lineOut (d : Rat) (s : State) : (driveRest d s).lineOut = s.lineOut := rfl
@[simp] theorem driveRest_mDir (d : Rat) (s : State) : (driveRest d s).mDir = s.mDir := rfl
@[simp] theorem driveRest_ring (d : Rat) (s : State) : (driveRest d s).ring = s.ring := rfl
@[simp] theorem driveRest_ringWr (d : Rat) (s : State) : (driveRest d s).ringWr = s.ringWr := rfl
@[simp] theorem driveRest_mRxSince (d : Rat) (s : State) : (driveRest d s).mRxSince = s.mRxSince := rfl
@[simp] theorem driveRest_mMap (d : Rat) (s : State) : (driveRest d s).mMap = s.mMap := rfl
@[simp] theorem driveRest_mTxq (d : Rat) (s : State) : (driveRest d s).mTxq = s.mTxq := rfl
@[simp] theorem driveRest_mBrk (d : Rat) (s : State) : (driveRest d s).mBrk = s.mBrk := rfl
@[simp] theorem driveRest_myAddr (d : Rat) (s : State) : (driveRest d s).myAddr = s.myAddr := rfl
@[simp] theorem driveRest_crc (d : Rat) (s : State) : (driveRest d s).crc = s.crc := rfl
@[simp] theorem driveRest_edgePend (d : Rat) (s : State) : (driveRest d s).edgePend = s.edgePend := rfl
@[simp] theorem driveRest_tickPend (d : Rat) (s : State) : (driveRest d s).tickPend = s.tickPend := rfl
@[simp] theorem driveRest_linePrev (d : Rat) (s : State) : (driveRest d s).linePrev = s.linePrev := rfl
@[simp] theorem driveRest_polDetected (d : Rat) (s : State) : (driveRest d s).polDetected = s.polDetected := rfl
@[simp] theorem driveRest_lineIn (d : Rat) (s : State) : (driveRest d s).lineIn = s.lineIn := rfl
@[simp] theorem driveRest_fwdReq (d : Rat) (s : State) : (driveRest d s).fwdReq = s.fwdReq := rfl
@[simp] theorem driveRest_mWave (d : Rat) (s : State) : (driveRest d s).mWave = s.mWave ++ [s.span d true] := rfl
@[simp] theorem driveRest_result (d : Rat) (s : State) : (driveRest d s).result = s.result := rfl
@[simp] theorem driveRest_inputs (d : Rat) (s : State) : (driveRest d s).inputs = s.inputs := rfl
@[simp] theorem driveRest_asleep (d : Rat) (s : State) : (driveRest d s).asleep = s.asleep := rfl
@[simp] theorem driveRest_mPhase (d : Rat) (s : State) : (driveRest d s).mPhase = s.mPhase := rfl

@[simp] theorem completeSending_cfg (s : State) : (completeSending s).cfg = s.cfg := rfl
@[simp] theorem completeSending_pol (s : State) : (completeSending s).pol = s.pol := rfl
@[simp] theorem completeSending_rxAcc (s : State) : (completeSending s).rxAcc = s.rxAcc := rfl
@[simp] theorem completeSending_rxBitcnt (s : State) : (completeSending s).rxBitcnt = s.rxBitcnt := rfl
@[simp] theorem completeSending_rxFsm (s : State) : (completeSending s).rxFsm = s.rxFsm := rfl
@[simp] theorem completeSending_rxCount (s : State) : (completeSending s).rxCount = s.rxCount := rfl
@[simp] theorem completeSending_rxLen (s : State) : (completeSending s).rxLen = s.rxLen := rfl
@[simp] theorem completeSending_frameComplete (s : State) : (completeSending s).frameComplete = s.frameComplete := rfl
@[simp] theorem completeSending_rxbuf (s : State) : (completeSending s).rxbuf = s.rxbuf := rfl
@[simp] theorem completeSending_clkRun (s : State) : (completeSending s).clkRun = s.clkRun := rfl
@[simp] theorem completeSending_clkCnt (s : State) : (completeSending s).clkCnt = s.clkCnt := rfl
@[simp] theorem completeSending_txbuf (s : State) : (completeSending s).txbuf = s.txbuf := rfl
@[simp] theorem completeSending_txLen (s : State) : (completeSending s).txLen = s.txLen := rfl
@[simp] theorem completeSending_txTick (s : State) : (completeSending s).txTick = s.txTick := rfl
@[simp] theorem completeSending_txBusy (s : State) : (completeSending s).txBusy = s.txBusy := rfl
@[simp] theorem completeSending_lineOe (s : State) : (completeSending s).lineOe = s.lineOe := rfl
@[simp] theorem completeSending_lineOut (s : State) : (completeSending s).lineOut = s.lineOut := rfl
@[simp] theorem completeSending_mDir (s : State) : (completeSending s).mDir = .rx := rfl
@[simp] theorem completeSending_ring (s : State) : (completeSending s).ring = s.ring := rfl
@[simp] theorem completeSending_ringWr (s : State) : (completeSending s).ringWr = s.ringWr := rfl
@[simp] theorem completeSending_mRxSince (s : State) : (completeSending s).mRxSince = 0 := rfl
@[simp] theorem completeSending_mMap (s : State) : (completeSending s).mMap = s.mMap := rfl
@[simp] theorem completeSending_mTxq (s : State) : (completeSending s).mTxq = s.mTxq := rfl
@[simp] theorem completeSending_mBrk (s : State) : (completeSending s).mBrk = s.mBrk := rfl
@[simp] theorem completeSending_myAddr (s : State) : (completeSending s).myAddr = s.myAddr := rfl
@[simp] theorem completeSending_crc (s : State) : (completeSending s).crc = s.crc := rfl
@[simp] theorem completeSending_edgePend (s : State) : (completeSending s).edgePend = s.edgePend := rfl
@[simp] theorem completeSending_tickPend (s : State) : (completeSending s).tickPend = s.tickPend := rfl
@[simp] theorem completeSending_linePrev (s : State) : (completeSending s).linePrev = s.linePrev := rfl
@[simp] theorem completeSending_polDetected (s : State) : (completeSending s).polDetected = s.polDetected := rfl
@[simp] theorem completeSending_lineIn (s : State) : (completeSending s).lineIn = s.lineIn := rfl
@[simp] theorem completeSending_fwdReq (s : State) : (completeSending s).fwdReq = s.fwdReq := rfl
@[simp] theorem completeSending_mWave (s : State) : (completeSending s).mWave = s.mWave := rfl
@[simp] theorem completeSending_result (s : State) : (completeSending s).result = s.result := rfl
@[simp] theorem completeSending_inputs (s : State) : (completeSending s).inputs = s.inputs := rfl
@[simp] theorem completeSending_asleep (s : State) : (completeSending s).asleep = s.asleep := rfl
@[simp] theorem completeSending_mPhase (s : State) : (completeSending s).mPhase = .start := rfl

@[simp] theorem takeFrame_cfg (n : Nat) (s : State) : (takeFrame n s).cfg = s.cfg := rfl
@[simp] theorem takeFrame_pol (n : Nat) (s : State) : (takeFrame n s).pol = s.pol := rfl
@[simp] theorem takeFrame_rxAcc (n : Nat) (s : State) : (takeFrame n s).rxAcc = s.rxAcc := rfl
@[simp] theorem takeFrame_rxBitcnt (n : Nat) (s : State) : (takeFrame n s).rxBitcnt = s.rxBitcnt := rfl
@[simp] theorem takeFrame_rxFsm (n : Nat) (s : State) : (takeFrame n s).rxFsm = s.rxFsm := rfl
@[simp] theorem takeFrame_rxCount (n : Nat) (s : State) : (takeFrame n s).rxCount = s.rxCount := rfl
@[simp] theorem takeFrame_rxLen (n : Nat) (s : State) : (takeFrame n s).rxLen = n := rfl
@[simp] theorem takeFrame_frameComplete (n : Nat) (s : State) : (takeFrame n s).frameComplete = false := rfl
@[simp] theorem takeFrame_rxbuf (n : Nat) (s : State) : (takeFrame n s).rxbuf = s.rxbuf := rfl
@[simp] theorem takeFrame_clkRun (n : Nat) (s : State) : (takeFrame n s).clkRun = s.clkRun := rfl
@[simp] theorem takeFrame_clkCnt (n : Nat) (s : State) : (takeFrame n s).clkCnt = s.clkCnt := rfl
@[simp] theorem takeFrame_txbuf (n : Nat) (s : State) : (takeFrame n s).txbuf = s.txbuf := rfl
@[simp] theorem takeFrame_txLen (n : Nat) (s : State) : (takeFrame n s).txLen = s.txLen := rfl
@[simp] theorem takeFrame_txTick (n : Nat) (s : State) : (takeFrame n s).txTick = s.txTick := rfl
@[simp] theorem takeFrame_txBusy (n : Nat) (s : State) : (takeFrame n s).txBusy = s.txBusy := rfl
@[simp] theorem takeFrame_lineOe (n : Nat) (s : State) : (takeFrame n s).lineOe = s.lineOe := rfl
@[simp] theorem takeFrame_lineOut (n : Nat) (s : State) : (takeFrame n s).lineOut = s.lineOut := rfl
@[simp] theorem takeFrame_mDir (n : Nat) (s : State) : (takeFrame n s).mDir = s.mDir := rfl
@[simp] theorem takeFrame_ring (n : Nat) (s : State) : (takeFrame n s).ring = s.ring := rfl
@[simp] theorem takeFrame_ringWr (n : Nat) (s : State) : (takeFrame n s).ringWr = s.ringWr := rfl
@[simp] theorem takeFrame_mRxSince (n : Nat) (s : State) : (takeFrame n s).mRxSince = s.mRxSince := rfl
@[simp] theorem takeFrame_mMap (n : Nat) (s : State) : (takeFrame n s).mMap = s.mMap := rfl
@[simp] theorem takeFrame_mTxq (n : Nat) (s : State) : (takeFrame n s).mTxq = s.mTxq := rfl
@[simp] theorem takeFrame_mBrk (n : Nat) (s : State) : (takeFrame n s).mBrk = s.mBrk := rfl
@[simp] theorem takeFrame_myAddr (n : Nat) (s : State) : (takeFrame n s).myAddr = s.myAddr := rfl
@[simp] theorem takeFrame_crc (n : Nat) (s : State) : (takeFrame n s).crc = s.crc := rfl
@[simp] theorem takeFrame_edgePend (n : Nat) (s : State) : (takeFrame n s).edgePend = s.edgePend := rfl
@[simp] theorem takeFrame_tickPend (n : Nat) (s : State) : (takeFrame n s).tickPend = s.tickPend := rfl
@[simp] theorem takeFrame_linePrev (n : Nat) (s : State) : (takeFrame n s).linePrev = s.linePrev := rfl
@[simp] theorem takeFrame_polDetected (n : Nat) (s : State) : (takeFrame n s).polDetected = s.polDetected := rfl
@[simp] theorem takeFrame_lineIn (n : Nat) (s : State) : (takeFrame n s).lineIn = s.lineIn := rfl
@[simp] theorem takeFrame_fwdReq (n : Nat) (s : State) : (takeFrame n s).fwdReq = s.fwdReq := rfl
@[simp] theorem takeFrame_mWave (n : Nat) (s : State) : (takeFrame n s).mWave = s.mWave := rfl
@[simp] theorem takeFrame_result (n : Nat) (s : State) : (takeFrame n s).result = s.result := rfl
@[simp] theorem takeFrame_inputs (n : Nat) (s : State) : (takeFrame n s).inputs = s.inputs := rfl
@[simp] theorem takeFrame_asleep (n : Nat) (s : State) : (takeFrame n s).asleep = s.asleep := rfl
@[simp] theorem takeFrame_mPhase (n : Nat) (s : State) : (takeFrame n s).mPhase = s.mPhase := rfl

@[simp] theorem dropAddress_cfg (s : State) : (dropAddress s).cfg = s.cfg := rfl
@[simp] theorem dropAddress_pol (s : State) : (dropAddress s).pol = s.pol := rfl
@[simp] theorem dropAddress_rxAcc (s : State) : (dropAddress s).rxAcc = s.rxAcc := rfl
@[simp] theorem dropAddress_rxBitcnt (s : State) : (dropAddress s).rxBitcnt = s.rxBitcnt := rfl
@[simp] theorem dropAddress_rxFsm (s : State) : (dropAddress s).rxFsm = s.rxFsm := rfl
@[simp] theorem dropAddress_rxCount (s : State) : (dropAddress s).rxCount = s.rxCount := rfl
@[simp] theorem dropAddress_rxLen (s : State) : (dropAddress s).rxLen = s.rxLen := rfl
@[simp] theorem dropAddress_frameComplete (s : State) : (dropAddress s).frameComplete = s.frameComplete := rfl
@[simp] theorem dropAddress_rxbuf (s : State) : (dropAddress s).rxbuf = s.rxbuf := rfl
@[simp] theorem dropAddress_clkRun (s : State) : (dropAddress s).clkRun = s.clkRun := rfl
@[simp] theorem dropAddress_clkCnt (s : State) : (dropAddress s).clkCnt = s.clkCnt := rfl
@[simp] theorem dropAddress_txbuf (s : State) : (dropAddress s).txbuf = s.txbuf := rfl
@[simp] theorem dropAddress_txLen (s : State) : (dropAddress s).txLen = s.txLen := rfl
@[simp] theorem dropAddress_txTick (s : State) : (dropAddress s).txTick = s.txTick := rfl
@[simp] theorem dropAddress_txBusy (s : State) : (dropAddress s).txBusy = s.txBusy := rfl
@[simp] theorem dropAddress_lineOe (s : State) : (dropAddress s).lineOe = s.lineOe := rfl
@[simp] theorem dropAddress_lineOut (s : State) : (dropAddress s).lineOut = s.lineOut := rfl
@[simp] theorem dropAddress_mDir (s : State) : (dropAddress s).mDir = s.mDir := rfl
@[simp] theorem dropAddress_ring (s : State) : (dropAddress s).ring = s.ring := rfl
@[simp] theorem dropAddress_ringWr (s : State) : (dropAddress s).ringWr = s.ringWr := rfl
@[simp] theorem dropAddress_mRxSince (s : State) : (dropAddress s).mRxSince = s.mRxSince := rfl
@[simp] theorem dropAddress_mMap (s : State) : (dropAddress s).mMap = s.mMap := rfl
@[simp] theorem dropAddress_mTxq (s : State) : (dropAddress s).mTxq = s.mTxq := rfl
@[simp] theorem dropAddress_mBrk (s : State) : (dropAddress s).mBrk = s.mBrk := rfl
@[simp] theorem dropAddress_myAddr (s : State) : (dropAddress s).myAddr = 0 := rfl
@[simp] theorem dropAddress_crc (s : State) : (dropAddress s).crc = s.crc := rfl
@[simp] theorem dropAddress_edgePend (s : State) : (dropAddress s).edgePend = s.edgePend := rfl
@[simp] theorem dropAddress_tickPend (s : State) : (dropAddress s).tickPend = s.tickPend := rfl
@[simp] theorem dropAddress_linePrev (s : State) : (dropAddress s).linePrev = s.linePrev := rfl
@[simp] theorem dropAddress_polDetected (s : State) : (dropAddress s).polDetected = s.polDetected := rfl
@[simp] theorem dropAddress_lineIn (s : State) : (dropAddress s).lineIn = s.lineIn := rfl
@[simp] theorem dropAddress_fwdReq (s : State) : (dropAddress s).fwdReq = s.fwdReq := rfl
@[simp] theorem dropAddress_mWave (s : State) : (dropAddress s).mWave = s.mWave := rfl
@[simp] theorem dropAddress_result (s : State) : (dropAddress s).result = s.result := rfl
@[simp] theorem dropAddress_inputs (s : State) : (dropAddress s).inputs = s.inputs := rfl
@[simp] theorem dropAddress_asleep (s : State) : (dropAddress s).asleep = s.asleep := rfl
@[simp] theorem dropAddress_mPhase (s : State) : (dropAddress s).mPhase = s.mPhase := rfl

@[simp] theorem wakeHost_cfg (s : State) : (wakeHost s).cfg = s.cfg := by unfold wakeHost; split <;> rfl
@[simp] theorem wakeHost_pol (s : State) : (wakeHost s).pol = s.pol := by unfold wakeHost; split <;> rfl
@[simp] theorem wakeHost_rxAcc (s : State) : (wakeHost s).rxAcc = s.rxAcc := by unfold wakeHost; split <;> rfl
@[simp] theorem wakeHost_rxBitcnt (s : State) : (wakeHost s).rxBitcnt = s.rxBitcnt := by unfold wakeHost; split <;> rfl
@[simp] theorem wakeHost_rxFsm (s : State) : (wakeHost s).rxFsm = s.rxFsm := by unfold wakeHost; split <;> rfl
@[simp] theorem wakeHost_rxCount (s : State) : (wakeHost s).rxCount = s.rxCount := by unfold wakeHost; split <;> rfl
@[simp] theorem wakeHost_rxLen (s : State) : (wakeHost s).rxLen = s.rxLen := by unfold wakeHost; split <;> rfl
@[simp] theorem wakeHost_frameComplete (s : State) : (wakeHost s).frameComplete = s.frameComplete := by unfold wakeHost; split <;> rfl
@[simp] theorem wakeHost_rxbuf (s : State) : (wakeHost s).rxbuf = s.rxbuf := by unfold wakeHost; split <;> rfl
@[simp] theorem wakeHost_clkRun (s : State) : (wakeHost s).clkRun = s.clkRun := by unfold wakeHost; split <;> rfl
@[simp] theorem wakeHost_clkCnt (s : State) : (wakeHost s).clkCnt = s.clkCnt := by unfold wakeHost; split <;> rfl
@[simp] theorem wakeHost_txbuf (s : State) : (wakeHost s).txbuf = s.txbuf := by unfold wakeHost; split <;> rfl
@[simp] theorem wakeHost_txLen (s : State) : (wakeHost s).txLen = s.txLen := by unfold wakeHost; split <;> rfl
@[simp] theorem wakeHost_txTick (s : State) : (wakeHost s).txTick = s.txTick := by unfold wakeHost; split <;> rfl
@[simp] theorem wakeHost_txBusy (s : State) : (wakeHost s).txBusy = s.txBusy := by unfold wakeHost; split <;> rfl
@[simp] theorem wakeHost_lineOe (s : State) : (wakeHost s).lineOe = s.lineOe := by unfold wakeHost; split <;> rfl
@[simp] theorem wakeHost_lineOut (s : State) : (wakeHost s).lineOut = s.lineOut := by unfold wakeHost; split <;> rfl
@[simp] theorem wakeHost_mDir (s : State) : (wakeHost s).mDir = s.mDir := by unfold wakeHost; split <;> rfl
@[simp] theorem wakeHost_ring (s : State) : (wakeHost s).ring = s.ring := by unfold wakeHost; split <;> rfl
@[simp] theorem wakeHost_ringWr (s : State) : (wakeHost s).ringWr = s.ringWr := by unfold wakeHost; split <;> rfl
@[simp] theorem wakeHost_mRxSince (s : State) : (wakeHost s).mRxSince = s.mRxSince := by unfold wakeHost; split <;> rfl
@[simp] theorem wakeHost_mMap (s : State) : (wakeHost s).mMap = s.mMap := by unfold wakeHost; split <;> rfl
@[simp] theorem wakeHost_mTxq (s : State) : (wakeHost s).mTxq = s.mTxq := by unfold wakeHost; split <;> rfl
@[simp] theorem wakeHost_mBrk (s : State) : (wakeHost s).mBrk = s.mBrk := by unfold wakeHost; split <;> rfl
@[simp] theorem wakeHost_myAddr (s : State) : (wakeHost s).myAddr = s.myAddr := by unfold wakeHost; split <;> rfl
@[simp] theorem wakeHost_crc (s : State) : (wakeHost s).crc = s.crc := by unfold wakeHost; split <;> rfl
@[simp] theorem wakeHost_edgePend (s : State) : (wakeHost s).edgePend = s.edgePend := by unfold wakeHost; split <;> rfl
@[simp] theorem wakeHost_tickPend (s : State) : (wakeHost s).tickPend = s.tickPend := by unfold wakeHost; split <;> rfl
@[simp] theorem wakeHost_linePrev (s : State) : (wakeHost s).linePrev = s.linePrev := by unfold wakeHost; split <;> rfl
@[simp] theorem wakeHost_lineIn (s : State) : (wakeHost s).lineIn = s.lineIn := by unfold wakeHost; split <;> rfl
@[simp] theorem wakeHost_fwdReq (s : State) : (wakeHost s).fwdReq = s.fwdReq := by unfold wakeHost; split <;> rfl
@[simp] theorem wakeHost_mWave (s : State) : (wakeHost s).mWave = s.mWave := by unfold wakeHost; split <;> rfl
@[simp] theorem wakeHost_mPhase (s : State) : (wakeHost s).mPhase = s.mPhase := by unfold wakeHost; split <;> rfl
@[simp] theorem wakeHost_result (s : State) : (wakeHost s).result = s.result := by unfold wakeHost; split <;> rfl
@[simp] theorem wakeHost_inputs (s : State) : (wakeHost s).inputs = s.inputs := by unfold wakeHost; split <;> rfl
@[simp] theorem wakeHost_asleep (s : State) : (wakeHost s).asleep = false := by
  unfold wakeHost; split <;> simp_all

@[simp] theorem wakeOnChange_cfg (a b : Bool) (s : State) : (wakeOnChange a b s).cfg = s.cfg := by
  unfold wakeOnChange; split <;> simp
@[simp] theorem wakeOnChange_pol (a b : Bool) (s : State) : (wakeOnChange a b s).pol = s.pol := by
  unfold wakeOnChange; split <;> simp
@[simp] theorem wakeOnChange_rxAcc (a b : Bool) (s : State) : (wakeOnChange a b s).rxAcc = s.rxAcc := by
  unfold wakeOnChange; split <;> simp
@[simp] theorem wakeOnChange_rxBitcnt (a b : Bool) (s : State) : (wakeOnChange a b s).rxBitcnt = s.rxBitcnt := by
  unfold wakeOnChange; split <;> simp
@[simp] theorem wakeOnChange_rxFsm (a b : Bool) (s : State) : (wakeOnChange a b s).rxFsm = s.rxFsm := by
  unfold wakeOnChange; split <;> simp
@[simp] theorem wakeOnChange_rxCount (a b : Bool) (s : State) : (wakeOnChange a b s).rxCount = s.rxCount := by
  unfold wakeOnChange; split <;> simp
@[simp] theorem wakeOnChange_rxLen (a b : Bool) (s : State) : (wakeOnChange a b s).rxLen = s.rxLen := by
  unfold wakeOnChange; split <;> simp
@[simp] theorem wakeOnChange_frameComplete (a b : Bool) (s : State) : (wakeOnChange a b s).frameComplete = s.frameComplete := by
  unfold wakeOnChange; split <;> simp
@[simp] theorem wakeOnChange_rxbuf (a b : Bool) (s : State) : (wakeOnChange a b s).rxbuf = s.rxbuf := by
  unfold wakeOnChange; split <;> simp
@[simp] theorem wakeOnChange_clkRun (a b : Bool) (s : State) : (wakeOnChange a b s).clkRun = s.clkRun := by
  unfold wakeOnChange; split <;> simp
@[simp] theorem wakeOnChange_clkCnt (a b : Bool) (s : State) : (wakeOnChange a b s).clkCnt = s.clkCnt := by
  unfold wakeOnChange; split <;> simp
@[simp] theorem wakeOnChange_txbuf (a b : Bool) (s : State) : (wakeOnChange a b s).txbuf = s.txbuf := by
  unfold wakeOnChange; split <;> simp
@[simp] theorem wakeOnChange_txLen (a b : Bool) (s : State) : (wakeOnChange a b s).txLen = s.txLen := by
  unfold wakeOnChange; split <;> simp
@[simp] theorem wakeOnChange_txTick (a b : Bool) (s : State) : (wakeOnChange a b s).txTick = s.txTick := by
  unfold wakeOnChange; split <;> simp
@[simp] theorem wakeOnChange_txBusy (a b : Bool) (s : State) : (wakeOnChange a b s).txBusy = s.txBusy := by
  unfold wakeOnChange; split <;> simp
@[simp] theorem wakeOnChange_lineOe (a b : Bool) (s : State) : (wakeOnChange a b s).lineOe = s.lineOe := by
  unfold wakeOnChange; split <;> simp
@[simp] theorem wakeOnChange_lineOut (a b : Bool) (s : State) : (wakeOnChange a b s).lineOut = s.lineOut := by
  unfold wakeOnChange; split <;> simp
@[simp] theorem wakeOnChange_mDir (a b : Bool) (s : State) : (wakeOnChange a b s).mDir = s.mDir := by
  unfold wakeOnChange; split <;> simp
@[simp] theorem wakeOnChange_ring (a b : Bool) (s : State) : (wakeOnChange a b s).ring = s.ring := by
  unfold wakeOnChange; split <;> simp
@[simp] theorem wakeOnChange_ringWr (a b : Bool) (s : State) : (wakeOnChange a b s).ringWr = s.ringWr := by
  unfold wakeOnChange; split <;> simp
@[simp] theorem wakeOnChange_mRxSince (a b : Bool) (s : State) : (wakeOnChange a b s).mRxSince = s.mRxSince := by
  unfold wakeOnChange; split <;> simp
@[simp] theorem wakeOnChange_mMap (a b : Bool) (s : State) : (wakeOnChange a b s).mMap = s.mMap := by
  unfold wakeOnChange; split <;> simp
@[simp] theorem wakeOnChange_mTxq (a b : Bool) (s : State) : (wakeOnChange a b s).mTxq = s.mTxq := by
  unfold wakeOnChange; split <;> simp
@[simp] theorem wakeOnChange_mBrk (a b : Bool) (s : State) : (wakeOnChange a b s).mBrk = s.mBrk := by
  unfold wakeOnChange; split <;> simp
@[simp] theorem wakeOnChange_myAddr (a b : Bool) (s : State) : (wakeOnChange a b s).myAddr = s.myAddr := by
  unfold wakeOnChange; split <;> simp
@[simp] theorem wakeOnChange_crc (a b : Bool) (s : State) : (wakeOnChange a b s).crc = s.crc := by
  unfold wakeOnChange; split <;> simp
@[simp] theorem wakeOnChange_edgePend (a b : Bool) (s : State) : (wakeOnChange a b s).edgePend = s.edgePend := by
  unfold wakeOnChange; split <;> simp
@[simp] theorem wakeOnChange_tickPend (a b : Bool) (s : State) : (wakeOnChange a b s).tickPend = s.tickPend := by
  unfold wakeOnChange; split <;> simp
@[simp] theorem wakeOnChange_linePrev (a b : Bool) (s : State) : (wakeOnChange a b s).linePrev = s.linePrev := by
  unfold wakeOnChange; split <;> simp
@[simp] theorem wakeOnChange_lineIn (a b : Bool) (s : State) : (wakeOnChange a b s).lineIn = s.lineIn := by
  unfold wakeOnChange; split <;> simp
@[simp] theorem wakeOnChange_fwdReq (a b : Bool) (s : State) : (wakeOnChange a b s).fwdReq = s.fwdReq := by
  unfold wakeOnChange; split <;> simp
@[simp] theorem wakeOnChange_mWave (a b : Bool) (s : State) : (wakeOnChange a b s).mWave = s.mWave := by
  unfold wakeOnChange; split <;> simp
@[simp] theorem wakeOnChange_mPhase (a b : Bool) (s : State) : (wakeOnChange a b s).mPhase = s.mPhase := by
  unfold wakeOnChange; split <;> simp
@[simp] theorem wakeOnChange_result (a b : Bool) (s : State) : (wakeOnChange a b s).result = s.result := by
  unfold wakeOnChange; split <;> simp
@[simp] theorem wakeOnChange_inputs (a b : Bool) (s : State) : (wakeOnChange a b s).inputs = s.inputs := by
  unfold wakeOnChange; split <;> simp
@[simp] theorem wakeOnChange_asleep (a b : Bool) (s : State) : (wakeOnChange a b s).asleep = (s.asleep && b == a) := by
  unfold wakeOnChange; split <;> simp_all
@[simp] theorem wakeOnChange_polDetected (a b : Bool) (s : State) :
    (wakeOnChange a b s).polDetected = (s.polDetected && (!s.asleep || b == a)) := by
  unfold wakeOnChange wakeHost; by_cases h : b = a <;> cases hs : s.asleep <;> simp [h, hs]

@[simp] theorem driveLine_cfg (v : Bool) (s : State) : (driveLine v s).cfg = s.cfg := by simp [driveLine]
@[simp] theorem driveLine_pol (v : Bool) (s : State) : (driveLine v s).pol = s.pol := by simp [driveLine]
@[simp] theorem driveLine_rxAcc (v : Bool) (s : State) : (driveLine v s).rxAcc = s.rxAcc := by simp [driveLine]
@[simp] theorem driveLine_rxBitcnt (v : Bool) (s : State) : (driveLine v s).rxBitcnt = s.rxBitcnt := by simp [driveLine]
@[simp] theorem driveLine_rxFsm (v : Bool) (s : State) : (driveLine v s).rxFsm = s.rxFsm := by simp [driveLine]
@[simp] theorem driveLine_rxCount (v : Bool) (s : State) : (driveLine v s).rxCount = s.rxCount := by simp [driveLine]
@[simp] theorem driveLine_rxLen (v : Bool) (s : State) : (driveLine v s).rxLen = s.rxLen := by simp [driveLine]
@[simp] theorem driveLine_frameComplete (v : Bool) (s : State) : (driveLine v s).frameComplete = s.frameComplete := by simp [driveLine]
@[simp] theorem driveLine_rxbuf (v : Bool) (s : State) : (driveLine v s).rxbuf = s.rxbuf := by simp [driveLine]
@[simp] theorem driveLine_clkRun (v : Bool) (s : State) : (driveLine v s).clkRun = s.clkRun := by simp [driveLine]
@[simp] theorem driveLine_clkCnt (v : Bool) (s : State) : (driveLine v s).clkCnt = s.clkCnt := by simp [driveLine]
@[simp] theorem driveLine_txbuf (v : Bool) (s : State) : (driveLine v s).txbuf = s.txbuf := by simp [driveLine]
@[simp] theorem driveLine_txLen (v : Bool) (s : State) : (driveLine v s).txLen = s.txLen := by simp [driveLine]
@[simp] theorem driveLine_txTick (v : Bool) (s : State) : (driveLine v s).txTick = s.txTick := by simp [driveLine]
@[simp] theorem driveLine_txBusy (v : Bool) (s : State) : (driveLine v s).txBusy = s.txBusy := by simp [driveLine]
@[simp] theorem driveLine_lineOe (v : Bool) (s : State) : (driveLine v s).lineOe = true := by simp [driveLine]
@[simp] theorem driveLine_lineOut (v : Bool) (s : State) : (driveLine v s).lineOut = v := by simp [driveLine]
@[simp] theorem driveLine_mDir (v : Bool) (s : State) : (driveLine v s).mDir = s.mDir := by simp [driveLine]
@[simp] theorem driveLine_ring (v : Bool) (s : State) : (driveLine v s).ring = s.ring := by simp [driveLine]
@[simp] theorem driveLine_ringWr (v : Bool) (s : State) : (driveLine v s).ringWr = s.ringWr := by simp [driveLine]
@[simp] theorem driveLine_mRxSince (v : Bool) (s : State) : (driveLine v s).mRxSince = s.mRxSince := by simp [driveLine]
@[simp] theorem driveLine_mMap (v : Bool) (s : State) : (driveLine v s).mMap = s.mMap := by simp [driveLine]
@[simp] theorem driveLine_mTxq (v : Bool) (s : State) : (driveLine v s).mTxq = s.mTxq := by simp [driveLine]
@[simp] theorem driveLine_mBrk (v : Bool) (s : State) : (driveLine v s).mBrk = s.mBrk := by simp [driveLine]
@[simp] theorem driveLine_myAddr (v : Bool) (s : State) : (driveLine v s).myAddr = s.myAddr := by simp [driveLine]
@[simp] theorem driveLine_crc (v : Bool) (s : State) : (driveLine v s).crc = s.crc := by simp [driveLine]
@[simp] theorem driveLine_edgePend (v : Bool) (s : State) : (driveLine v s).edgePend = s.edgePend := by simp [driveLine]
@[simp] theorem driveLine_tickPend (v : Bool) (s : State) : (driveLine v s).tickPend = s.tickPend := by simp [driveLine]
@[simp] theorem driveLine_linePrev (v : Bool) (s : State) : (driveLine v s).linePrev = s.logical v := by simp [driveLine]
@[simp] theorem driveLine_polDetected (v : Bool) (s : State) :
    (driveLine v s).polDetected = (s.polDetected && (!s.asleep || v == s.lineIn)) := by simp [driveLine]
@[simp] theorem driveLine_lineIn (v : Bool) (s : State) : (driveLine v s).lineIn = v := by simp [driveLine]
@[simp] theorem driveLine_fwdReq (v : Bool) (s : State) : (driveLine v s).fwdReq = s.fwdReq := by simp [driveLine]
@[simp] theorem driveLine_mWave (v : Bool) (s : State) : (driveLine v s).mWave = s.mWave := by simp [driveLine]
@[simp] theorem driveLine_result (v : Bool) (s : State) : (driveLine v s).result = s.result := by simp [driveLine]
@[simp] theorem driveLine_inputs (v : Bool) (s : State) : (driveLine v s).inputs = s.inputs := by simp [driveLine]
@[simp] theorem driveLine_asleep (v : Bool) (s : State) : (driveLine v s).asleep = (s.asleep && v == s.lineIn) := by simp [driveLine]
@[simp] theorem driveLine_mPhase (v : Bool) (s : State) : (driveLine v s).mPhase = s.mPhase := by simp [driveLine]

@[simp] theorem releaseLine_cfg (s : State) : (releaseLine s).cfg = s.cfg := by simp [releaseLine]
@[simp] theorem releaseLine_pol (s : State) : (releaseLine s).pol = s.pol := by simp [releaseLine]
@[simp] theorem releaseLine_rxAcc (s : State) : (releaseLine s).rxAcc = s.rxAcc := by simp [releaseLine]
@[simp] theorem releaseLine_rxBitcnt (s : State) : (releaseLine s).rxBitcnt = s.rxBitcnt := by simp [releaseLine]
@[simp] theorem releaseLine_rxFsm (s : State) : (releaseLine s).rxFsm = s.rxFsm := by simp [releaseLine]
@[simp] theorem releaseLine_rxCount (s : State) : (releaseLine s).rxCount = s.rxCount := by simp [releaseLine]
@[simp] theorem releaseLine_rxLen (s : State) : (releaseLine s).rxLen = s.rxLen := by simp [releaseLine]
@[simp] theorem releaseLine_frameComplete (s : State) : (releaseLine s).frameComplete = s.frameComplete := by simp [releaseLine]
@[simp] theorem releaseLine_rxbuf (s : State) : (releaseLine s).rxbuf = s.rxbuf := by simp [releaseLine]
@[simp] theorem releaseLine_clkRun (s : State) : (releaseLine s).clkRun = s.clkRun := by simp [releaseLine]
@[simp] theorem releaseLine_clkCnt (s : State) : (releaseLine s).clkCnt = s.clkCnt := by simp [releaseLine]
@[simp] theorem releaseLine_txbuf (s : State) : (releaseLine s).txbuf = s.txbuf := by simp [releaseLine]
@[simp] theorem releaseLine_txLen (s : State) : (releaseLine s).txLen = s.txLen := by simp [releaseLine]
@[simp] theorem releaseLine_txTick (s : State) : (releaseLine s).txTick = s.txTick := by simp [releaseLine]
@[simp] theorem releaseLine_txBusy (s : State) : (releaseLine s).txBusy = s.txBusy := by simp [releaseLine]
@[simp] theorem releaseLine_lineOe (s : State) : (releaseLine s).lineOe = false := by simp [releaseLine]
@[simp] theorem releaseLine_lineOut (s : State) : (releaseLine s).lineOut = s.lineOut := by simp [releaseLine]
@[simp] theorem releaseLine_mDir (s : State) : (releaseLine s).mDir = s.mDir := by simp [releaseLine]
@[simp] theorem releaseLine_ring (s : State) : (releaseLine s).ring = s.ring := by simp [releaseLine]
@[simp] theorem releaseLine_ringWr (s : State) : (releaseLine s).ringWr = s.ringWr := by simp [releaseLine]
@[simp] theorem releaseLine_mRxSince (s : State) : (releaseLine s).mRxSince = s.mRxSince := by simp [releaseLine]
@[simp] theorem releaseLine_mMap (s : State) : (releaseLine s).mMap = s.mMap := by simp [releaseLine]
@[simp] theorem releaseLine_mTxq (s : State) : (releaseLine s).mTxq = s.mTxq := by simp [releaseLine]
@[simp] theorem releaseLine_mBrk (s : State) : (releaseLine s).mBrk = s.mBrk := by simp [releaseLine]
@[simp] theorem releaseLine_myAddr (s : State) : (releaseLine s).myAddr = s.myAddr := by simp [releaseLine]
@[simp] theorem releaseLine_crc (s : State) : (releaseLine s).crc = s.crc := by simp [releaseLine]
@[simp] theorem releaseLine_edgePend (s : State) : (releaseLine s).edgePend = s.edgePend := by simp [releaseLine]
@[simp] theorem releaseLine_tickPend (s : State) : (releaseLine s).tickPend = s.tickPend := by simp [releaseLine]
@[simp] theorem releaseLine_linePrev (s : State) : (releaseLine s).linePrev = s.logical (s.lineLevel true) := by simp [releaseLine]
@[simp] theorem releaseLine_polDetected (s : State) :
    (releaseLine s).polDetected = (s.polDetected && (!s.asleep || s.lineLevel true == s.lineIn)) := by simp [releaseLine]
@[simp] theorem releaseLine_lineIn (s : State) : (releaseLine s).lineIn = s.lineLevel true := by simp [releaseLine]
@[simp] theorem releaseLine_fwdReq (s : State) : (releaseLine s).fwdReq = s.fwdReq := by simp [releaseLine]
@[simp] theorem releaseLine_mWave (s : State) : (releaseLine s).mWave = s.mWave := by simp [releaseLine]
@[simp] theorem releaseLine_result (s : State) : (releaseLine s).result = s.result := by simp [releaseLine]
@[simp] theorem releaseLine_inputs (s : State) : (releaseLine s).inputs = s.inputs := by simp [releaseLine]
@[simp] theorem releaseLine_asleep (s : State) : (releaseLine s).asleep = (s.asleep && s.lineLevel true == s.lineIn) := by simp [releaseLine]
@[simp] theorem releaseLine_mPhase (s : State) : (releaseLine s).mPhase = s.mPhase := by simp [releaseLine]

@[simp] theorem detectEdge_cfg (v : Bool) (s : State) : (detectEdge v s).cfg = s.cfg := by unfold detectEdge; split <;> rfl
@[simp] theorem detectEdge_pol (v : Bool) (s : State) : (detectEdge v s).pol = s.pol := by unfold detectEdge; split <;> rfl
@[simp] theorem detectEdge_rxAcc (v : Bool) (s : State) : (detectEdge v s).rxAcc = s.rxAcc := by unfold detectEdge; split <;> rfl
@[simp] theorem detectEdge_rxBitcnt (v : Bool) (s : State) : (detectEdge v s).rxBitcnt = s.rxBitcnt := by unfold detectEdge; split <;> rfl
@[simp] theorem detectEdge_rxFsm (v : Bool) (s : State) : (detectEdge v s).rxFsm = s.rxFsm := by unfold detectEdge; split <;> rfl
@[simp] theorem detectEdge_rxCount (v : Bool) (s : State) : (detectEdge v s).rxCount = s.rxCount := by unfold detectEdge; split <;> rfl
@[simp] theorem detectEdge_rxLen (v : Bool) (s : State) : (detectEdge v s).rxLen = s.rxLen := by unfold detectEdge; split <;> rfl
@[simp] theorem detectEdge_frameComplete (v : Bool) (s : State) : (detectEdge v s).frameComplete = s.frameComplete := by unfold detectEdge; split <;> rfl
@[simp] theorem detectEdge_rxbuf (v : Bool) (s : State) : (detectEdge v s).rxbuf = s.rxbuf := by unfold detectEdge; split <;> rfl
@[simp] theorem detectEdge_clkRun (v : Bool) (s : State) : (detectEdge v s).clkRun = s.clkRun := by unfold detectEdge; split <;> rfl
@[simp] theorem detectEdge_clkCnt (v : Bool) (s : State) : (detectEdge v s).clkCnt = s.clkCnt := by unfold detectEdge; split <;> rfl
@[simp] theorem detectEdge_txbuf (v : Bool) (s : State) : (detectEdge v s).txbuf = s.txbuf := by unfold detectEdge; split <;> rfl
@[simp] theorem detectEdge_txLen (v : Bool) (s : State) : (detectEdge v s).txLen = s.txLen := by unfold detectEdge; split <;> rfl
@[simp] theorem detectEdge_txTick (v : Bool) (s : State) : (detectEdge v s).txTick = s.txTick := by unfold detectEdge; split <;> rfl
@[simp] theorem detectEdge_txBusy (v : Bool) (s : State) : (detectEdge v s).txBusy = s.txBusy := by unfold detectEdge; split <;> rfl
@[simp] theorem detectEdge_lineOe (v : Bool) (s : State) : (detectEdge v s).lineOe = s.lineOe := by unfold detectEdge; split <;> rfl
@[simp] theorem detectEdge_lineOut (v : Bool) (s : State) : (detectEdge v s).lineOut = s.lineOut := by unfold detectEdge; split <;> rfl
@[simp] theorem detectEdge_mDir (v : Bool) (s : State) : (detectEdge v s).mDir = s.mDir := by unfold detectEdge; split <;> rfl
@[simp] theorem detectEdge_ring (v : Bool) (s : State) : (detectEdge v s).ring = s.ring := by unfold detectEdge; split <;> rfl
@[simp] theorem detectEdge_ringWr (v : Bool) (s : State) : (detectEdge v s).ringWr = s.ringWr := by unfold detectEdge; split <;> rfl
@[simp] theorem detectEdge_mRxSince (v : Bool) (s : State) : (detectEdge v s).mRxSince = s.mRxSince := by unfold detectEdge; split <;> rfl
@[simp] theorem detectEdge_mMap (v : Bool) (s : State) : (detectEdge v s).mMap = s.mMap := by unfold detectEdge; split <;> rfl
@[simp] theorem detectEdge_mTxq (v : Bool) (s : State) : (detectEdge v s).mTxq = s.mTxq := by unfold detectEdge; split <;> rfl
@[simp] theorem detectEdge_mBrk (v : Bool) (s : State) : (detectEdge v s).mBrk = s.mBrk := by unfold detectEdge; split <;> rfl
@[simp] theorem detectEdge_myAddr (v : Bool) (s : State) : (detectEdge v s).myAddr = s.myAddr := by unfold detectEdge; split <;> rfl
@[simp] theorem detectEdge_crc (v : Bool) (s : State) : (detectEdge v s).crc = s.crc := by unfold detectEdge; split <;> rfl
@[simp] theorem detectEdge_tickPend (v : Bool) (s : State) : (detectEdge v s).tickPend = s.tickPend := by unfold detectEdge; split <;> rfl
@[simp] theorem detectEdge_asleep (v : Bool) (s : State) : (detectEdge v s).asleep = s.asleep := by unfold detectEdge; split <;> rfl
@[simp] theorem detectEdge_polDetected (v : Bool) (s : State) : (detectEdge v s).polDetected = s.polDetected := by unfold detectEdge; split <;> rfl
@[simp] theorem detectEdge_fwdReq (v : Bool) (s : State) : (detectEdge v s).fwdReq = s.fwdReq := by unfold detectEdge; split <;> rfl
@[simp] theorem detectEdge_mWave (v : Bool) (s : State) : (detectEdge v s).mWave = s.mWave := by unfold detectEdge; split <;> rfl
@[simp] theorem detectEdge_mPhase (v : Bool) (s : State) : (detectEdge v s).mPhase = s.mPhase := by unfold detectEdge; split <;> rfl
@[simp] theorem detectEdge_result (v : Bool) (s : State) : (detectEdge v s).result = s.result := by unfold detectEdge; split <;> rfl
@[simp] theorem detectEdge_inputs (v : Bool) (s : State) : (detectEdge v s).inputs = s.inputs := by unfold detectEdge; split <;> rfl
@[simp] theorem detectEdge_lineIn (v : Bool) (s : State) : (detectEdge v s).lineIn = v := by unfold detectEdge; split <;> rfl

@[simp] theorem presentLevel_cfg (v : Bool) (s : State) : (presentLevel v s).cfg = s.cfg := by simp [presentLevel]
@[simp] theorem presentLevel_pol (v : Bool) (s : State) : (presentLevel v s).pol = s.pol := by simp [presentLevel]
@[simp] theorem presentLevel_rxAcc (v : Bool) (s : State) : (presentLevel v s).rxAcc = s.rxAcc := by simp [presentLevel]
@[simp] theorem presentLevel_rxBitcnt (v : Bool) (s : State) : (presentLevel v s).rxBitcnt = s.rxBitcnt := by simp [presentLevel]
@[simp] theorem presentLevel_rxFsm (v : Bool) (s : State) : (presentLevel v s).rxFsm = s.rxFsm := by simp [presentLevel]
@[simp] theorem presentLevel_rxCount (v : Bool) (s : State) : (presentLevel v s).rxCount = s.rxCount := by simp [presentLevel]
@[simp] theorem presentLevel_rxLen (v : Bool) (s : State) : (presentLevel v s).rxLen = s.rxLen := by simp [presentLevel]
@[simp] theorem presentLevel_frameComplete (v : Bool) (s : State) : (presentLevel v s).frameComplete = s.frameComplete := by simp [presentLevel]
@[simp] theorem presentLevel_rxbuf (v : Bool) (s : State) : (presentLevel v s).rxbuf = s.rxbuf := by simp [presentLevel]
@[simp] theorem presentLevel_clkRun (v : Bool) (s : State) : (presentLevel v s).clkRun = s.clkRun := by simp [presentLevel]
@[simp] theorem presentLevel_clkCnt (v : Bool) (s : State) : (presentLevel v s).clkCnt = s.clkCnt := by simp [presentLevel]
@[simp] theorem presentLevel_txbuf (v : Bool) (s : State) : (presentLevel v s).txbuf = s.txbuf := by simp [presentLevel]
@[simp] theorem presentLevel_txLen (v : Bool) (s : State) : (presentLevel v s).txLen = s.txLen := by simp [presentLevel]
@[simp] theorem presentLevel_txTick (v : Bool) (s : State) : (presentLevel v s).txTick = s.txTick := by simp [presentLevel]
@[simp] theorem presentLevel_txBusy (v : Bool) (s : State) : (presentLevel v s).txBusy = s.txBusy := by simp [presentLevel]
@[simp] theorem presentLevel_lineOe (v : Bool) (s : State) : (presentLevel v s).lineOe = s.lineOe := by simp [presentLevel]
@[simp] theorem presentLevel_lineOut (v : Bool) (s : State) : (presentLevel v s).lineOut = s.lineOut := by simp [presentLevel]
@[simp] theorem presentLevel_mDir (v : Bool) (s : State) : (presentLevel v s).mDir = s.mDir := by simp [presentLevel]
@[simp] theorem presentLevel_ring (v : Bool) (s : State) : (presentLevel v s).ring = s.ring := by simp [presentLevel]
@[simp] theorem presentLevel_ringWr (v : Bool) (s : State) : (presentLevel v s).ringWr = s.ringWr := by simp [presentLevel]
@[simp] theorem presentLevel_mRxSince (v : Bool) (s : State) : (presentLevel v s).mRxSince = s.mRxSince := by simp [presentLevel]
@[simp] theorem presentLevel_mMap (v : Bool) (s : State) : (presentLevel v s).mMap = s.mMap := by simp [presentLevel]
@[simp] theorem presentLevel_mTxq (v : Bool) (s : State) : (presentLevel v s).mTxq = s.mTxq := by simp [presentLevel]
@[simp] theorem presentLevel_mBrk (v : Bool) (s : State) : (presentLevel v s).mBrk = s.mBrk := by simp [presentLevel]
@[simp] theorem presentLevel_myAddr (v : Bool) (s : State) : (presentLevel v s).myAddr = s.myAddr := by simp [presentLevel]
@[simp] theorem presentLevel_crc (v : Bool) (s : State) : (presentLevel v s).crc = s.crc := by simp [presentLevel]
@[simp] theorem presentLevel_tickPend (v : Bool) (s : State) : (presentLevel v s).tickPend = s.tickPend := by simp [presentLevel]
@[simp] theorem presentLevel_fwdReq (v : Bool) (s : State) : (presentLevel v s).fwdReq = s.fwdReq := by simp [presentLevel]
@[simp] theorem presentLevel_mWave (v : Bool) (s : State) : (presentLevel v s).mWave = s.mWave := by simp [presentLevel]
@[simp] theorem presentLevel_mPhase (v : Bool) (s : State) : (presentLevel v s).mPhase = s.mPhase := by simp [presentLevel]
@[simp] theorem presentLevel_result (v : Bool) (s : State) : (presentLevel v s).result = s.result := by simp [presentLevel]
@[simp] theorem presentLevel_inputs (v : Bool) (s : State) : (presentLevel v s).inputs = s.inputs := by simp [presentLevel]
@[simp] theorem presentLevel_lineIn (v : Bool) (s : State) : (presentLevel v s).lineIn = v := by simp [presentLevel]

@[simp] theorem takeEdge_cfg (s : State) : (takeEdge s).cfg = s.cfg := by unfold takeEdge; split <;> simp
@[simp] theorem takeEdge_pol (s : State) : (takeEdge s).pol = s.pol := by unfold takeEdge; split <;> simp
@[simp] theorem takeEdge_rxAcc (s : State) : (takeEdge s).rxAcc = s.rxAcc := by unfold takeEdge; split <;> simp
@[simp] theorem takeEdge_rxBitcnt (s : State) : (takeEdge s).rxBitcnt = s.rxBitcnt := by unfold takeEdge; split <;> simp
@[simp] theorem takeEdge_rxCount (s : State) : (takeEdge s).rxCount = s.rxCount := by unfold takeEdge; split <;> simp
@[simp] theorem takeEdge_rxLen (s : State) : (takeEdge s).rxLen = s.rxLen := by unfold takeEdge; split <;> simp
@[simp] theorem takeEdge_frameComplete (s : State) : (takeEdge s).frameComplete = s.frameComplete := by unfold takeEdge; split <;> simp
@[simp] theorem takeEdge_rxbuf (s : State) : (takeEdge s).rxbuf = s.rxbuf := by unfold takeEdge; split <;> simp
@[simp] theorem takeEdge_txbuf (s : State) : (takeEdge s).txbuf = s.txbuf := by unfold takeEdge; split <;> simp
@[simp] theorem takeEdge_txLen (s : State) : (takeEdge s).txLen = s.txLen := by unfold takeEdge; split <;> simp
@[simp] theorem takeEdge_txTick (s : State) : (takeEdge s).txTick = s.txTick := by unfold takeEdge; split <;> simp
@[simp] theorem takeEdge_txBusy (s : State) : (takeEdge s).txBusy = s.txBusy := by unfold takeEdge; split <;> simp
@[simp] theorem takeEdge_lineOe (s : State) : (takeEdge s).lineOe = s.lineOe := by unfold takeEdge; split <;> simp
@[simp] theorem takeEdge_lineOut (s : State) : (takeEdge s).lineOut = s.lineOut := by unfold takeEdge; split <;> simp
@[simp] theorem takeEdge_mDir (s : State) : (takeEdge s).mDir = s.mDir := by unfold takeEdge; split <;> simp
@[simp] theorem takeEdge_ring (s : State) : (takeEdge s).ring = s.ring := by unfold takeEdge; split <;> simp
@[simp] theorem takeEdge_ringWr (s : State) : (takeEdge s).ringWr = s.ringWr := by unfold takeEdge; split <;> simp
@[simp] theorem takeEdge_mRxSince (s : State) : (takeEdge s).mRxSince = s.mRxSince := by unfold takeEdge; split <;> simp
@[simp] theorem takeEdge_mMap (s : State) : (takeEdge s).mMap = s.mMap := by unfold takeEdge; split <;> simp
@[simp] theorem takeEdge_mTxq (s : State) : (takeEdge s).mTxq = s.mTxq := by unfold takeEdge; split <;> simp
@[simp] theorem takeEdge_mBrk (s : State) : (takeEdge s).mBrk = s.mBrk := by unfold takeEdge; split <;> simp
@[simp] theorem takeEdge_myAddr (s : State) : (takeEdge s).myAddr = s.myAddr := by unfold takeEdge; split <;> simp
@[simp] theorem takeEdge_crc (s : State) : (takeEdge s).crc = s.crc := by unfold takeEdge; split <;> simp
@[simp] theorem takeEdge_tickPend (s : State) : (takeEdge s).tickPend = s.tickPend := by unfold takeEdge; split <;> simp
@[simp] theorem takeEdge_linePrev (s : State) : (takeEdge s).linePrev = s.linePrev := by unfold takeEdge; split <;> simp
@[simp] theorem takeEdge_lineIn (s : State) : (takeEdge s).lineIn = s.lineIn := by unfold takeEdge; split <;> simp
@[simp] theorem takeEdge_fwdReq (s : State) : (takeEdge s).fwdReq = s.fwdReq := by unfold takeEdge; split <;> simp
@[simp] theorem takeEdge_mWave (s : State) : (takeEdge s).mWave = s.mWave := by unfold takeEdge; split <;> simp
@[simp] theorem takeEdge_result (s : State) : (takeEdge s).result = s.result := by unfold takeEdge; split <;> simp
@[simp] theorem takeEdge_inputs (s : State) : (takeEdge s).inputs = s.inputs := by unfold takeEdge; split <;> simp
@[simp] theorem takeEdge_mPhase (s : State) : (takeEdge s).mPhase = s.mPhase := by unfold takeEdge; split <;> simp
@[simp] theorem takeEdge_asleep (s : State) : (takeEdge s).asleep = false := by unfold takeEdge; split <;> simp

@[simp] theorem storeReceived_cfg (b : Byte) (s : State) : (storeReceived b s).cfg = s.cfg := by unfold storeReceived; split <;> rfl
@[simp] theorem storeReceived_pol (b : Byte) (s : State) : (storeReceived b s).pol = s.pol := by unfold storeReceived; split <;> rfl
@[simp] theorem storeReceived_rxAcc (b : Byte) (s : State) : (storeReceived b s).rxAcc = s.rxAcc := by unfold storeReceived; split <;> rfl
@[simp] theorem storeReceived_rxBitcnt (b : Byte) (s : State) : (storeReceived b s).rxBitcnt = s.rxBitcnt := by unfold storeReceived; split <;> rfl
@[simp] theorem storeReceived_rxFsm (b : Byte) (s : State) : (storeReceived b s).rxFsm = s.rxFsm := by unfold storeReceived; split <;> rfl
@[simp] theorem storeReceived_rxLen (b : Byte) (s : State) : (storeReceived b s).rxLen = s.rxLen := by unfold storeReceived; split <;> rfl
@[simp] theorem storeReceived_clkRun (b : Byte) (s : State) : (storeReceived b s).clkRun = s.clkRun := by unfold storeReceived; split <;> rfl
@[simp] theorem storeReceived_clkCnt (b : Byte) (s : State) : (storeReceived b s).clkCnt = s.clkCnt := by unfold storeReceived; split <;> rfl
@[simp] theorem storeReceived_txbuf (b : Byte) (s : State) : (storeReceived b s).txbuf = s.txbuf := by unfold storeReceived; split <;> rfl
@[simp] theorem storeReceived_txLen (b : Byte) (s : State) : (storeReceived b s).txLen = s.txLen := by unfold storeReceived; split <;> rfl
@[simp] theorem storeReceived_txTick (b : Byte) (s : State) : (storeReceived b s).txTick = s.txTick := by unfold storeReceived; split <;> rfl
@[simp] theorem storeReceived_txBusy (b : Byte) (s : State) : (storeReceived b s).txBusy = s.txBusy := by unfold storeReceived; split <;> rfl
@[simp] theorem storeReceived_lineOe (b : Byte) (s : State) : (storeReceived b s).lineOe = s.lineOe := by unfold storeReceived; split <;> rfl
@[simp] theorem storeReceived_lineOut (b : Byte) (s : State) : (storeReceived b s).lineOut = s.lineOut := by unfold storeReceived; split <;> rfl
@[simp] theorem storeReceived_mDir (b : Byte) (s : State) : (storeReceived b s).mDir = s.mDir := by unfold storeReceived; split <;> rfl
@[simp] theorem storeReceived_ring (b : Byte) (s : State) : (storeReceived b s).ring = s.ring := by unfold storeReceived; split <;> rfl
@[simp] theorem storeReceived_ringWr (b : Byte) (s : State) : (storeReceived b s).ringWr = s.ringWr := by unfold storeReceived; split <;> rfl
@[simp] theorem storeReceived_mRxSince (b : Byte) (s : State) : (storeReceived b s).mRxSince = s.mRxSince := by unfold storeReceived; split <;> rfl
@[simp] theorem storeReceived_mMap (b : Byte) (s : State) : (storeReceived b s).mMap = s.mMap := by unfold storeReceived; split <;> rfl
@[simp] theorem storeReceived_mTxq (b : Byte) (s : State) : (storeReceived b s).mTxq = s.mTxq := by unfold storeReceived; split <;> rfl
@[simp] theorem storeReceived_mBrk (b : Byte) (s : State) : (storeReceived b s).mBrk = s.mBrk := by unfold storeReceived; split <;> rfl
@[simp] theorem storeReceived_myAddr (b : Byte) (s : State) : (storeReceived b s).myAddr = s.myAddr := by unfold storeReceived; split <;> rfl
@[simp] theorem storeReceived_crc (b : Byte) (s : State) : (storeReceived b s).crc = s.crc := by unfold storeReceived; split <;> rfl
@[simp] theorem storeReceived_edgePend (b : Byte) (s : State) : (storeReceived b s).edgePend = s.edgePend := by unfold storeReceived; split <;> rfl
@[simp] theorem storeReceived_tickPend (b : Byte) (s : State) : (storeReceived b s).tickPend = s.tickPend := by unfold storeReceived; split <;> rfl
@[simp] theorem storeReceived_linePrev (b : Byte) (s : State) : (storeReceived b s).linePrev = s.linePrev := by unfold storeReceived; split <;> rfl
@[simp] theorem storeReceived_polDetected (b : Byte) (s : State) : (storeReceived b s).polDetected = s.polDetected := by unfold storeReceived; split <;> rfl
@[simp] theorem storeReceived_lineIn (b : Byte) (s : State) : (storeReceived b s).lineIn = s.lineIn := by unfold storeReceived; split <;> rfl
@[simp] theorem storeReceived_fwdReq (b : Byte) (s : State) : (storeReceived b s).fwdReq = s.fwdReq := by unfold storeReceived; split <;> rfl
@[simp] theorem storeReceived_mWave (b : Byte) (s : State) : (storeReceived b s).mWave = s.mWave := by unfold storeReceived; split <;> rfl
@[simp] theorem storeReceived_result (b : Byte) (s : State) : (storeReceived b s).result = s.result := by unfold storeReceived; split <;> rfl
@[simp] theorem storeReceived_inputs (b : Byte) (s : State) : (storeReceived b s).inputs = s.inputs := by unfold storeReceived; split <;> rfl
@[simp] theorem storeReceived_asleep (b : Byte) (s : State) : (storeReceived b s).asleep = s.asleep := by unfold storeReceived; split <;> rfl
@[simp] theorem storeReceived_mPhase (b : Byte) (s : State) : (storeReceived b s).mPhase = s.mPhase := by unfold storeReceived; split <;> rfl

@[simp] theorem claimSlot_cfg (g : Data11) (s : State) : (claimSlot g s).cfg = s.cfg := by unfold claimSlot; split <;> rfl
@[simp] theorem claimSlot_pol (g : Data11) (s : State) : (claimSlot g s).pol = s.pol := by unfold claimSlot; split <;> rfl
@[simp] theorem claimSlot_rxAcc (g : Data11) (s : State) : (claimSlot g s).rxAcc = s.rxAcc := by unfold claimSlot; split <;> rfl
@[simp] theorem claimSlot_rxBitcnt (g : Data11) (s : State) : (claimSlot g s).rxBitcnt = s.rxBitcnt := by unfold claimSlot; split <;> rfl
@[simp] theorem claimSlot_rxFsm (g : Data11) (s : State) : (claimSlot g s).rxFsm = s.rxFsm := by unfold claimSlot; split <;> rfl
@[simp] theorem claimSlot_rxCount (g : Data11) (s : State) : (claimSlot g s).rxCount = s.rxCount := by unfold claimSlot; split <;> rfl
@[simp] theorem claimSlot_rxLen (g : Data11) (s : State) : (claimSlot g s).rxLen = s.rxLen := by unfold claimSlot; split <;> rfl
@[simp] theorem claimSlot_frameComplete (g : Data11) (s : State) : (claimSlot g s).frameComplete = s.frameComplete := by unfold claimSlot; split <;> rfl
@[simp] theorem claimSlot_rxbuf (g : Data11) (s : State) : (claimSlot g s).rxbuf = s.rxbuf := by unfold claimSlot; split <;> rfl
@[simp] theorem claimSlot_clkRun (g : Data11) (s : State) : (claimSlot g s).clkRun = s.clkRun := by unfold claimSlot; split <;> rfl
@[simp] theorem claimSlot_clkCnt (g : Data11) (s : State) : (claimSlot g s).clkCnt = s.clkCnt := by unfold claimSlot; split <;> rfl
@[simp] theorem claimSlot_txbuf (g : Data11) (s : State) : (claimSlot g s).txbuf = s.txbuf := by unfold claimSlot; split <;> rfl
@[simp] theorem claimSlot_txLen (g : Data11) (s : State) : (claimSlot g s).txLen = s.txLen := by unfold claimSlot; split <;> rfl
@[simp] theorem claimSlot_txTick (g : Data11) (s : State) : (claimSlot g s).txTick = s.txTick := by unfold claimSlot; split <;> rfl
@[simp] theorem claimSlot_txBusy (g : Data11) (s : State) : (claimSlot g s).txBusy = s.txBusy := by unfold claimSlot; split <;> rfl
@[simp] theorem claimSlot_lineOe (g : Data11) (s : State) : (claimSlot g s).lineOe = s.lineOe := by unfold claimSlot; split <;> rfl
@[simp] theorem claimSlot_lineOut (g : Data11) (s : State) : (claimSlot g s).lineOut = s.lineOut := by unfold claimSlot; split <;> rfl
@[simp] theorem claimSlot_mDir (g : Data11) (s : State) : (claimSlot g s).mDir = s.mDir := by unfold claimSlot; split <;> rfl
@[simp] theorem claimSlot_ring (g : Data11) (s : State) : (claimSlot g s).ring = s.ring := by unfold claimSlot; split <;> rfl
@[simp] theorem claimSlot_ringWr (g : Data11) (s : State) : (claimSlot g s).ringWr = s.ringWr := by unfold claimSlot; split <;> rfl
@[simp] theorem claimSlot_mRxSince (g : Data11) (s : State) : (claimSlot g s).mRxSince = s.mRxSince := by unfold claimSlot; split <;> rfl
@[simp] theorem claimSlot_mMap (g : Data11) (s : State) : (claimSlot g s).mMap = s.mMap := by unfold claimSlot; split <;> rfl
@[simp] theorem claimSlot_mTxq (g : Data11) (s : State) : (claimSlot g s).mTxq = s.mTxq := by unfold claimSlot; split <;> rfl
@[simp] theorem claimSlot_mBrk (g : Data11) (s : State) : (claimSlot g s).mBrk = s.mBrk := by unfold claimSlot; split <;> rfl
@[simp] theorem claimSlot_crc (g : Data11) (s : State) : (claimSlot g s).crc = s.crc := by unfold claimSlot; split <;> rfl
@[simp] theorem claimSlot_edgePend (g : Data11) (s : State) : (claimSlot g s).edgePend = s.edgePend := by unfold claimSlot; split <;> rfl
@[simp] theorem claimSlot_tickPend (g : Data11) (s : State) : (claimSlot g s).tickPend = s.tickPend := by unfold claimSlot; split <;> rfl
@[simp] theorem claimSlot_linePrev (g : Data11) (s : State) : (claimSlot g s).linePrev = s.linePrev := by unfold claimSlot; split <;> rfl
@[simp] theorem claimSlot_polDetected (g : Data11) (s : State) : (claimSlot g s).polDetected = s.polDetected := by unfold claimSlot; split <;> rfl
@[simp] theorem claimSlot_lineIn (g : Data11) (s : State) : (claimSlot g s).lineIn = s.lineIn := by unfold claimSlot; split <;> rfl
@[simp] theorem claimSlot_mWave (g : Data11) (s : State) : (claimSlot g s).mWave = s.mWave := by unfold claimSlot; split <;> rfl
@[simp] theorem claimSlot_result (g : Data11) (s : State) : (claimSlot g s).result = s.result := by unfold claimSlot; split <;> rfl
@[simp] theorem claimSlot_inputs (g : Data11) (s : State) : (claimSlot g s).inputs = s.inputs := by unfold claimSlot; split <;> rfl
@[simp] theorem claimSlot_asleep (g : Data11) (s : State) : (claimSlot g s).asleep = s.asleep := by unfold claimSlot; split <;> rfl
@[simp] theorem claimSlot_mPhase (g : Data11) (s : State) : (claimSlot g s).mPhase = s.mPhase := by unfold claimSlot; split <;> rfl

@[simp] theorem timerCount_cfg (s : State) : (timerCount s).cfg = s.cfg := by unfold timerCount; split <;> rfl
@[simp] theorem timerCount_pol (s : State) : (timerCount s).pol = s.pol := by unfold timerCount; split <;> rfl
@[simp] theorem timerCount_rxAcc (s : State) : (timerCount s).rxAcc = s.rxAcc := by unfold timerCount; split <;> rfl
@[simp] theorem timerCount_rxBitcnt (s : State) : (timerCount s).rxBitcnt = s.rxBitcnt := by unfold timerCount; split <;> rfl
@[simp] theorem timerCount_rxFsm (s : State) : (timerCount s).rxFsm = s.rxFsm := by unfold timerCount; split <;> rfl
@[simp] theorem timerCount_rxCount (s : State) : (timerCount s).rxCount = s.rxCount := by unfold timerCount; split <;> rfl
@[simp] theorem timerCount_rxLen (s : State) : (timerCount s).rxLen = s.rxLen := by unfold timerCount; split <;> rfl
@[simp] theorem timerCount_frameComplete (s : State) : (timerCount s).frameComplete = s.frameComplete := by unfold timerCount; split <;> rfl
@[simp] theorem timerCount_rxbuf (s : State) : (timerCount s).rxbuf = s.rxbuf := by unfold timerCount; split <;> rfl
@[simp] theorem timerCount_clkRun (s : State) : (timerCount s).clkRun = s.clkRun := by unfold timerCount; split <;> rfl
@[simp] theorem timerCount_txbuf (s : State) : (timerCount s).txbuf = s.txbuf := by unfold timerCount; split <;> rfl
@[simp] theorem timerCount_txLen (s : State) : (timerCount s).txLen = s.txLen := by unfold timerCount; split <;> rfl
@[simp] theorem timerCount_txTick (s : State) : (timerCount s).txTick = s.txTick := by unfold timerCount; split <;> rfl
@[simp] theorem timerCount_txBusy (s : State) : (timerCount s).txBusy = s.txBusy := by unfold timerCount; split <;> rfl
@[simp] theorem timerCount_lineOe (s : State) : (timerCount s).lineOe = s.lineOe := by unfold timerCount; split <;> rfl
@[simp] theorem timerCount_lineOut (s : State) : (timerCount s).lineOut = s.lineOut := by unfold timerCount; split <;> rfl
@[simp] theorem timerCount_mDir (s : State) : (timerCount s).mDir = s.mDir := by unfold timerCount; split <;> rfl
@[simp] theorem timerCount_ring (s : State) : (timerCount s).ring = s.ring := by unfold timerCount; split <;> rfl
@[simp] theorem timerCount_ringWr (s : State) : (timerCount s).ringWr = s.ringWr := by unfold timerCount; split <;> rfl
@[simp] theorem timerCount_mRxSince (s : State) : (timerCount s).mRxSince = s.mRxSince := by unfold timerCount; split <;> rfl
@[simp] theorem timerCount_mMap (s : State) : (timerCount s).mMap = s.mMap := by unfold timerCount; split <;> rfl
@[simp] theorem timerCount_mTxq (s : State) : (timerCount s).mTxq = s.mTxq := by unfold timerCount; split <;> rfl
@[simp] theorem timerCount_mBrk (s : State) : (timerCount s).mBrk = s.mBrk := by unfold timerCount; split <;> rfl
@[simp] theorem timerCount_myAddr (s : State) : (timerCount s).myAddr = s.myAddr := by unfold timerCount; split <;> rfl
@[simp] theorem timerCount_crc (s : State) : (timerCount s).crc = s.crc := by unfold timerCount; split <;> rfl
@[simp] theorem timerCount_edgePend (s : State) : (timerCount s).edgePend = s.edgePend := by unfold timerCount; split <;> rfl
@[simp] theorem timerCount_linePrev (s : State) : (timerCount s).linePrev = s.linePrev := by unfold timerCount; split <;> rfl
@[simp] theorem timerCount_polDetected (s : State) : (timerCount s).polDetected = s.polDetected := by unfold timerCount; split <;> rfl
@[simp] theorem timerCount_lineIn (s : State) : (timerCount s).lineIn = s.lineIn := by unfold timerCount; split <;> rfl
@[simp] theorem timerCount_fwdReq (s : State) : (timerCount s).fwdReq = s.fwdReq := by unfold timerCount; split <;> rfl
@[simp] theorem timerCount_mWave (s : State) : (timerCount s).mWave = s.mWave := by unfold timerCount; split <;> rfl
@[simp] theorem timerCount_result (s : State) : (timerCount s).result = s.result := by unfold timerCount; split <;> rfl
@[simp] theorem timerCount_inputs (s : State) : (timerCount s).inputs = s.inputs := by unfold timerCount; split <;> rfl
@[simp] theorem timerCount_asleep (s : State) : (timerCount s).asleep = s.asleep := by unfold timerCount; split <;> rfl
@[simp] theorem timerCount_mPhase (s : State) : (timerCount s).mPhase = s.mPhase := by unfold timerCount; split <;> rfl

@[simp] theorem sendBreak_cfg (s : State) : (sendBreak s).cfg = s.cfg := by unfold sendBreak; split <;> rfl
@[simp] theorem sendBreak_pol (s : State) : (sendBreak s).pol = s.pol := by unfold sendBreak; split <;> rfl
@[simp] theorem sendBreak_rxAcc (s : State) : (sendBreak s).rxAcc = s.rxAcc := by unfold sendBreak; split <;> rfl
@[simp] theorem sendBreak_rxBitcnt (s : State) : (sendBreak s).rxBitcnt = s.rxBitcnt := by unfold sendBreak; split <;> rfl
@[simp] theorem sendBreak_rxFsm (s : State) : (sendBreak s).rxFsm = s.rxFsm := by unfold sendBreak; split <;> rfl
@[simp] theorem sendBreak_rxCount (s : State) : (sendBreak s).rxCount = s.rxCount := by unfold sendBreak; split <;> rfl
@[simp] theorem sendBreak_rxLen (s : State) : (sendBreak s).rxLen = s.rxLen := by unfold sendBreak; split <;> rfl
@[simp] theorem sendBreak_frameComplete (s : State) : (sendBreak s).frameComplete = s.frameComplete := by unfold sendBreak; split <;> rfl
@[simp] theorem sendBreak_rxbuf (s : State) : (sendBreak s).rxbuf = s.rxbuf := by unfold sendBreak; split <;> rfl
@[simp] theorem sendBreak_clkRun (s : State) : (sendBreak s).clkRun = s.clkRun := by unfold sendBreak; split <;> rfl
@[simp] theorem sendBreak_clkCnt (s : State) : (sendBreak s).clkCnt = s.clkCnt := by unfold sendBreak; split <;> rfl
@[simp] theorem sendBreak_txbuf (s : State) : (sendBreak s).txbuf = s.txbuf := by unfold sendBreak; split <;> rfl
@[simp] theorem sendBreak_txLen (s : State) : (sendBreak s).txLen = s.txLen := by unfold sendBreak; split <;> rfl
@[simp] theorem sendBreak_txTick (s : State) : (sendBreak s).txTick = s.txTick := by unfold sendBreak; split <;> rfl
@[simp] theorem sendBreak_txBusy (s : State) : (sendBreak s).txBusy = s.txBusy := by unfold sendBreak; split <;> rfl
@[simp] theorem sendBreak_lineOe (s : State) : (sendBreak s).lineOe = s.lineOe := by unfold sendBreak; split <;> rfl
@[simp] theorem sendBreak_lineOut (s : State) : (sendBreak s).lineOut = s.lineOut := by unfold sendBreak; split <;> rfl
@[simp] theorem sendBreak_mDir (s : State) : (sendBreak s).mDir = s.mDir := by unfold sendBreak; split <;> rfl
@[simp] theorem sendBreak_ring (s : State) : (sendBreak s).ring = s.ring := by unfold sendBreak; split <;> rfl
@[simp] theorem sendBreak_ringWr (s : State) : (sendBreak s).ringWr = s.ringWr := by unfold sendBreak; split <;> rfl
@[simp] theorem sendBreak_mRxSince (s : State) : (sendBreak s).mRxSince = s.mRxSince := by unfold sendBreak; split <;> rfl
@[simp] theorem sendBreak_mMap (s : State) : (sendBreak s).mMap = s.mMap := by unfold sendBreak; split <;> rfl
@[simp] theorem sendBreak_mTxq (s : State) : (sendBreak s).mTxq = s.mTxq := by unfold sendBreak; split <;> rfl
@[simp] theorem sendBreak_myAddr (s : State) : (sendBreak s).myAddr = s.myAddr := by unfold sendBreak; split <;> rfl
@[simp] theorem sendBreak_crc (s : State) : (sendBreak s).crc = s.crc := by unfold sendBreak; split <;> rfl
@[simp] theorem sendBreak_edgePend (s : State) : (sendBreak s).edgePend = s.edgePend := by unfold sendBreak; split <;> rfl
@[simp] theorem sendBreak_tickPend (s : State) : (sendBreak s).tickPend = s.tickPend := by unfold sendBreak; split <;> rfl
@[simp] theorem sendBreak_linePrev (s : State) : (sendBreak s).linePrev = s.linePrev := by unfold sendBreak; split <;> rfl
@[simp] theorem sendBreak_polDetected (s : State) : (sendBreak s).polDetected = s.polDetected := by unfold sendBreak; split <;> rfl
@[simp] theorem sendBreak_lineIn (s : State) : (sendBreak s).lineIn = s.lineIn := by unfold sendBreak; split <;> rfl
@[simp] theorem sendBreak_fwdReq (s : State) : (sendBreak s).fwdReq = s.fwdReq := by unfold sendBreak; split <;> rfl
@[simp] theorem sendBreak_result (s : State) : (sendBreak s).result = s.result := by unfold sendBreak; split <;> rfl
@[simp] theorem sendBreak_inputs (s : State) : (sendBreak s).inputs = s.inputs := by unfold sendBreak; split <;> rfl
@[simp] theorem sendBreak_asleep (s : State) : (sendBreak s).asleep = s.asleep := by unfold sendBreak; split <;> rfl

end Machine
end Sys2Proof
end

