-- ==== Sys2Proof/Laws/Memory.lean ====
section
/-! SUPPORT. The laws of a buffer: reading after writing, and the canonical form that every write keeps. -/

namespace Sys2Proof
namespace Machine

/-- A cell after a write: the byte written at its offset, the old content elsewhere. -/
theorem Memory.cell_write (m : Memory) (a : Nat) (b : Byte) (x : Nat) :
    (Memory.write m a b).cell x = if x = a then some b else m.cell x := by
  induction m with
  | nil =>
    by_cases h : x = a
    · subst h; simp [Memory.write, Memory.cell]
    · have h' : ¬ a = x := fun e => h e.symm
      simp [Memory.write, Memory.cell, h, h']
  | cons c m ih =>
    unfold Memory.write
    by_cases h1 : a < c.1
    · by_cases h : x = a
      · subst h; simp [h1, Memory.cell]
      · have h' : ¬ a = x := fun e => h e.symm
        simp [h1, Memory.cell, h, h']
    · by_cases h2 : a = c.1
      · by_cases h : x = a
        · subst h; simp [← h2, Memory.cell]
        · have h' : ¬ a = x := fun e => h e.symm
          have h'' : ¬ c.1 = x := fun e => h (by omega)
          simp [h2, Memory.cell, h'']; intro e; omega
      · simp only [h1, h2, if_false, Memory.cell, ih]
        by_cases h : c.1 = x
        · have : ¬ x = a := by omega
          simp [h, this]
        · simp [h]

theorem Memory.cell_write_same (m : Memory) (a : Nat) (b : Byte) : (Memory.write m a b).cell a = some b := by
  simp [Memory.cell_write]

theorem Memory.cell_write_other (m : Memory) (a : Nat) (b : Byte) (x : Nat) (h : x ≠ a) :
    (Memory.write m a b).cell x = m.cell x := by
  simp [Memory.cell_write, h]

/-- A cell after a run of bytes is written from offset `a`. -/
theorem Memory.cell_writeList (bs : List Byte) (m : Memory) (a x : Nat) :
    (Memory.writeList m a bs).cell x = if a ≤ x ∧ x < a + bs.length then bs[x - a]? else m.cell x := by
  induction bs generalizing m a with
  | nil => simp only [Memory.writeList, List.length_nil]; rw [if_neg (by omega)]
  | cons b bs ih =>
    simp only [Memory.writeList, ih, Memory.cell_write, List.length_cons]
    by_cases h : a + 1 ≤ x ∧ x < a + 1 + bs.length
    · have h3 : x - a = (x - (a + 1)) + 1 := by omega
      rw [if_pos h, if_pos (by omega), h3, List.getElem?_cons_succ]
    · rw [if_neg h]
      by_cases h2 : x = a
      · subst h2; simp
      · rw [if_neg h2, if_neg (by omega)]

/-- The canonical form as an order on all entries. -/
theorem Memory.wf_cons (c : Host.Cell) (m : Memory) :
    Memory.wf (c :: m) = true ↔ (∀ d ∈ m, c.1 < d.1) ∧ Memory.wf m = true := by
  induction m generalizing c with
  | nil => simp [Memory.wf]
  | cons d m ih =>
    simp only [Memory.wf, Bool.and_eq_true, decide_eq_true_eq]
    constructor
    · rintro ⟨h1, h2⟩
      refine ⟨?_, h2⟩
      intro e he
      rcases List.mem_cons.mp he with rfl | he
      · exact h1
      · exact lt_trans h1 (((ih d).mp h2).1 e he)
    · rintro ⟨h1, h2⟩
      exact ⟨h1 d (by simp), h2⟩

/-- What a write can put into the list. -/
theorem Memory.mem_write (m : Memory) (a : Nat) (b : Byte) (c : Host.Cell) (h : c ∈ Memory.write m a b) :
    c = (a, b) ∨ c ∈ m := by
  induction m with
  | nil => simpa [Memory.write] using h
  | cons d m ih =>
    unfold Memory.write at h
    split at h
    · simpa using h
    · split at h
      · rcases List.mem_cons.mp h with h | h
        · exact .inl h
        · exact .inr (by simp [h])
      · rcases List.mem_cons.mp h with h | h
        · exact .inr (by simp [h])
        · rcases ih h with h | h
          · exact .inl h
          · exact .inr (by simp [h])

/-- A write keeps the canonical form. -/
theorem Memory.write_wf (m : Memory) (a : Nat) (b : Byte) (h : m.wf = true) : (Memory.write m a b).wf = true := by
  induction m with
  | nil => rfl
  | cons c m ih =>
    have h0 := (Memory.wf_cons c m).mp h
    unfold Memory.write
    split
    · rename_i h1
      refine (Memory.wf_cons _ _).mpr ⟨?_, h⟩
      intro d hd
      rcases List.mem_cons.mp hd with rfl | hd
      · exact h1
      · exact lt_trans h1 (h0.1 d hd)
    · split
      · rename_i h1 h2
        refine (Memory.wf_cons _ _).mpr ⟨?_, h0.2⟩
        intro d hd
        have := h0.1 d hd
        show a < d.1
        omega
      · rename_i h1 h2
        refine (Memory.wf_cons _ _).mpr ⟨?_, ih h0.2⟩
        intro d hd
        rcases Memory.mem_write m a b d hd with rfl | hd
        · show c.1 < a
          omega
        · exact h0.1 d hd

/-- A write inside the bounds stays inside them. -/
theorem Memory.write_within (n : Nat) (m : Memory) (a : Nat) (b : Byte) (ha : a < n) (h : m.within n = true) :
    (Memory.write m a b).within n = true := by
  simp only [Memory.within, List.all_eq_true, decide_eq_true_eq] at h ⊢
  intro c hc
  rcases Memory.mem_write m a b c hc with rfl | hc
  · exact ha
  · exact h c hc

theorem Memory.writeList_wf (bs : List Byte) (m : Memory) (a : Nat) (h : m.wf = true) :
    (Memory.writeList m a bs).wf = true := by
  induction bs generalizing m a with
  | nil => exact h
  | cons b bs ih => exact ih _ _ (Memory.write_wf m a b h)

theorem Memory.writeList_within (n : Nat) (bs : List Byte) (m : Memory) (a : Nat) (ha : a + bs.length ≤ n)
    (h : m.within n = true) : (Memory.writeList m a bs).within n = true := by
  induction bs generalizing m a with
  | nil => exact h
  | cons b bs ih =>
    simp only [List.length_cons] at ha
    exact ih _ _ (by omega) (Memory.write_within n m a b (by omega) h)

end Machine
end Sys2Proof
end

