-- ==== Sys2Proof/Laws/Ops.lean ====
section
/-! SUPPORT. For each shared operation, once: what it can answer. -/

namespace Sys2Proof
namespace Machine

/-! ### Answers -/

theorem ret_next {r : Result} {s t : State} : ret r s = .next t ↔ t = { s with result := r } := by
  simp only [ret, Host.Outcome.next.injEq]
  exact ⟨fun h => h.symm, fun h => h.symm⟩

theorem raiseExc_next {e : Exc} {s t : State} : raiseExc e s = .next t ↔ t = { s with result := .exception e } :=
  ret_next

theorem needModule_next {s t : State} {k : Answer} :
    needModule s k = .next t ↔ s.cfg.role = .moduleRole ∧ k = .next t := by
  unfold needModule; split <;> simp_all

theorem needMaster_next {s t : State} {k : Answer} :
    needMaster s k = .next t ↔ s.cfg.role = .masterRole ∧ k = .next t := by
  unfold needMaster; split <;> simp_all

theorem needSer_next {s t : State} {k : Answer} :
    needSer s k = .next t ↔ s.cfg.role = .moduleRole ∧ s.polDetected = true ∧ k = .next t := by
  unfold needSer
  rw [needModule_next]
  split <;> simp_all

theorem onLine_next {s k t : State} :
    onLine s k = .next t ↔ t = k ∧ (s.cfg.role = .moduleRole → s.polDetected = true ∧ s.asleep = false) := by
  unfold onLine
  cases hr : s.cfg.role
  · by_cases h : s.polDetected = true ∧ s.asleep = false
    · rw [if_pos h]
      simp only [Host.Outcome.next.injEq]
      exact ⟨fun e => ⟨e.symm, fun _ => h⟩, fun e => e.1.symm⟩
    · rw [if_neg h]
      simp [h]
  · simp only [Host.Outcome.next.injEq, reduceCtorEq, false_implies, and_true]
    exact ⟨fun h => h.symm, fun h => h.symm⟩

theorem tickOf_next {c : TickCase} {v : Bool} {s t : State} :
    tickOf c v s = .next t ↔
      s.cfg.role = .moduleRole ∧ s.polDetected = true ∧ s.tickCase = some c ∧ t = runTick c v s := by
  unfold tickOf
  rw [needSer_next]
  by_cases h : s.tickCase = some c
  · simp only [h, if_true, Host.Outcome.next.injEq, true_and]
    exact ⟨fun ⟨a, b, e⟩ => ⟨a, b, e.symm⟩, fun ⟨a, b, e⟩ => ⟨a, b, e.symm⟩⟩
  · simp [h]

theorem startTransmission_next {bs : List Byte} {s t : State} :
    startTransmission bs s = .next t ↔
      s.txBusy = false ∧ s.rxFsm = .waitEdge ∧ 1 ≤ bs.length ∧ bs.length ≤ s.cfg.txbufLen ∧
      t = { s with
        txbuf := s.txbuf.writeList 0 bs
        txLen := bs.length
        txTick := 0
        txBusy := true
        clkCnt := s.cfg.bitTicks
        clkRun := true
        result := .none } := by
  unfold startTransmission
  split
  · rename_i h
    constructor
    · intro e; cases e
    · rintro ⟨h1, h2, _⟩
      rcases h with h | h
      · rw [h1] at h; cases h
      · exact absurd h2 h
  · rename_i h
    split
    · rename_i h2
      constructor
      · intro e; cases e
      · rintro ⟨_, _, h3, h4, _⟩; omega
    · rename_i h2
      have hb : s.txBusy = false := by
        cases e : s.txBusy
        · rfl
        · exact absurd (.inl e) h
      have hf : s.rxFsm = .waitEdge := by
        by_cases e : s.rxFsm = .waitEdge
        · exact e
        · exact absurd (.inr e) h
      simp only [Host.Outcome.next.injEq]
      constructor
      · intro e; exact ⟨hb, hf, by omega, by omega, e.symm⟩
      · rintro ⟨_, _, _, _, e⟩; exact e.symm

theorem startSending_next {brk : Bool} {bs : List Byte} {s t : State} :
    startSending brk bs s = .next t ↔
      s.mDir = .rx ∧ (brk = true ∨ 1 ≤ bs.length) ∧ bs.length ≤ s.cfg.ringLen ∧
      t = { s with mDir := .tx, mBrk := brk, mTxq := bs, mWave := [], mPhase := .start, result := .none } := by
  unfold startSending
  split
  · rename_i h
    simp [h]
  · rename_i h
    have hd : s.mDir = .rx := by
      cases e : s.mDir
      · rfl
      · exact absurd e h
    split
    · rename_i h2
      constructor
      · intro e; cases e
      · rintro ⟨_, h3, h4, _⟩
        rcases h2 with ⟨e, h5⟩ | h2
        · rcases h3 with h3 | h3
          · rw [e] at h3; cases h3
          · omega
        · omega
    · rename_i h2
      simp only [Host.Outcome.next.injEq]
      constructor
      · intro e
        refine ⟨hd, ?_, by omega, e.symm⟩
        cases hb : brk
        · right
          by_contra hc
          exact h2 (.inl ⟨hb, by omega⟩)
        · exact .inl rfl
      · rintro ⟨_, _, _, e⟩; exact e.symm

theorem offerCommand_next {a : Addr} {op : Opcode} {g : Data11} {f : State → State} {s t : State} :
    offerCommand a op g f s = .next t ↔
      (s.filterCommand a op = none ∧ t = { s with result := .noCommand }) ∨
      ∃ bc, s.filterCommand a op = some bc ∧ t = { f s with result := .delivered a op g bc } := by
  unfold offerCommand
  split
  · rename_i h
    simp [h, ret_next]
  · rename_i bc h
    simp [h, ret_next]

theorem checkBlock_next {n : Nat} {bs : List Byte} {r : Result} {s t : State} :
    checkBlock n bs r s = .next t ↔
      bs.length = n ∧
      ((crcBlock (bs.take (n - 2)) = storedTrailer s.cfg.wordOrder n bs ∧
        t = { s with crc := crcBlock (bs.take (n - 2)), result := r }) ∨
       (crcBlock (bs.take (n - 2)) ≠ storedTrailer s.cfg.wordOrder n bs ∧
        t = { s with
          crc := crcBlock (bs.take (n - 2))
          result := .exception (.crcMismatch (crcBlock (bs.take (n - 2))) (storedTrailer s.cfg.wordOrder n bs)) })) := by
  unfold checkBlock
  split
  · rename_i h
    split
    · rename_i h2
      simp [h2, ret_next, h]
    · rename_i h2
      simp [h2, raiseExc_next, h]
  · rename_i h
    simp [h]

theorem lineInput_next {v : Bool} {s t : State} :
    lineInput v s = .next t ↔ (s.lineOe = true → v = s.lineOut) ∧ t = presentLevel v s := by
  unfold lineInput
  split
  · rename_i h
    simp only [reduceCtorEq, false_iff, not_and]
    intro h2 _
    exact h.2 (h2 h.1)
  · rename_i h
    simp only [Host.Outcome.next.injEq]
    constructor
    · intro e
      refine ⟨?_, e.symm⟩
      intro h2
      by_contra h3
      exact h ⟨h2, h3⟩
    · rintro ⟨_, e⟩; exact e.symm

/-! ### The line and the events -/

theorem detectEdge_detected {v : Bool} {s : State} (h : s.polDetected = true) :
    detectEdge v s =
      { s with
        lineIn := v
        linePrev := s.logical v
        edgePend := s.edgePend || (fallingEdge s.linePrev (s.logical v) && s.edgeEnabled) } := by
  simp [detectEdge, h]

theorem detectEdge_undetected {v : Bool} {s : State} (h : s.polDetected = false) :
    detectEdge v s = { s with lineIn := v } := by
  simp [detectEdge, h]

theorem wakeHost_awake {s : State} (h : s.asleep = false) : wakeHost s = s := by
  simp [wakeHost, h]

theorem wakeHost_asleep_eq {s : State} (h : s.asleep = true) :
    wakeHost s = { s with asleep := false, polDetected := false } := by
  simp [wakeHost, h]

/-- R132 alone: with the host awake, or the level unchanged, only the detector sees the level. -/
theorem presentLevel_detects {v : Bool} {s : State} (h : s.asleep = false ∨ v = s.lineIn) :
    presentLevel v s = detectEdge v s := by
  unfold presentLevel wakeOnChange
  split
  · rfl
  · rename_i hv
    exact wakeHost_awake (by rw [detectEdge_asleep]; exact h.resolve_right hv)

/-- R281: a change of the level under a sleeping host. -/
theorem presentLevel_wakes {v : Bool} {s : State} (h : s.asleep = true) (hv : v ≠ s.lineIn) :
    presentLevel v s = { detectEdge v s with asleep := false, polDetected := false } := by
  unfold presentLevel wakeOnChange
  rw [if_neg hv]
  exact wakeHost_asleep_eq (by rw [detectEdge_asleep]; exact h)

theorem presentLevel_detected {v : Bool} {s : State} (h : s.polDetected = true) (ha : s.asleep = false) :
    presentLevel v s =
      { s with
        lineIn := v
        linePrev := s.logical v
        edgePend := s.edgePend || (fallingEdge s.linePrev (s.logical v) && s.edgeEnabled) } := by
  rw [presentLevel_detects (.inl ha), detectEdge_detected h]

/-- R281: with the host awake, or the level unchanged, no wake. -/
theorem wakeOnChange_same {a b : Bool} {s : State} (h : s.asleep = false ∨ b = a) : wakeOnChange a b s = s := by
  unfold wakeOnChange
  split
  · rfl
  · rename_i hv
    exact wakeHost_awake (h.resolve_right hv)

theorem wakeOnChange_wakes {a b : Bool} {s : State} (h : s.asleep = true) (hv : b ≠ a) :
    wakeOnChange a b s = { s with asleep := false, polDetected := false } := by
  unfold wakeOnChange
  rw [if_neg hv]
  exact wakeHost_asleep_eq h

theorem driveLine_awake {v : Bool} {s : State} (h : s.asleep = false) :
    driveLine v s = { s with lineOe := true, lineOut := v, lineIn := v, linePrev := s.logical v } := by
  unfold driveLine
  exact wakeOnChange_same (.inl h)

theorem releaseLine_awake {s : State} (h : s.asleep = false) :
    releaseLine s =
      { s with lineOe := false, lineIn := s.lineLevel true, linePrev := s.logical (s.lineLevel true) } := by
  unfold releaseLine
  exact wakeOnChange_same (.inl h)

theorem takeEdge_enabled {s : State} (h : s.edgeEnabled = true) :
    takeEdge s =
      { wakeHost s with edgePend := false, rxFsm := .waitStart, clkCnt := s.cfg.bitTicks / 2, clkRun := true } := by
  simp [takeEdge, h]

theorem takeEdge_disabled {s : State} (h : s.edgeEnabled = false) :
    takeEdge s = { wakeHost s with edgePend := false } := by
  simp [takeEdge, h]

theorem hostSleeps_next {s t : State} :
    hostSleeps s = .next t ↔ s.cfg.role = .moduleRole ∧ t = { s with asleep := true } := by
  unfold hostSleeps
  rw [needModule_next]
  simp only [Host.Outcome.next.injEq, eq_comm]

theorem agentRest_next {d : Rat} {s t : State} :
    agentRest d s = .next t ↔ (s.restAllowed = true ∧ 0 < d) ∧ t = driveRest d s := by
  unfold agentRest
  split
  · rename_i h
    simp only [Host.Outcome.next.injEq]
    exact ⟨fun e => ⟨h, e.symm⟩, fun e => e.2.symm⟩
  · rename_i h
    simp only [reduceCtorEq, false_iff]
    exact fun e => h e.1

theorem logical_elec (s : State) (b : Bool) : s.logical (s.elec b) = b := by
  unfold State.logical State.elec
  cases b <;> cases s.pol <;> rfl

theorem elec_logical (s : State) (v : Bool) : s.elec (s.logical v) = v := by
  unfold State.logical State.elec
  cases v <;> cases s.pol <;> rfl

/-- What a stored byte does (R137): inside the bounds it lands at `rx_count`, else nothing. -/
theorem storeReceived_cases (b : Byte) (s : State) :
    (s.rxCount < s.cfg.rxbufLen ∧
      storeReceived b s = { s with
        rxbuf := s.rxbuf.write s.rxCount b
        rxCount := s.rxCount + 1
        frameComplete := completeAfterStore s.frameComplete (s.rxCount + 1) s.rxLen }) ∨
    (s.cfg.rxbufLen ≤ s.rxCount ∧ storeReceived b s = s) := by
  unfold storeReceived
  split
  · rename_i h
    exact .inl ⟨h, rfl⟩
  · rename_i h
    exact .inr ⟨by omega, rfl⟩

/-- R137: a slot is a break or a byte. -/
theorem disposeSlot_cases (b : Bool) (s : State) :
    (s.rxAcc = 0 ∧ b = false ∧ disposeSlot b s = { s with rxCount := 0, frameComplete := false }) ∨
    ((s.rxAcc ≠ 0 ∨ b = true) ∧ disposeSlot b s = storeReceived s.rxAcc s) := by
  unfold disposeSlot
  split
  · rename_i h
    exact .inl ⟨h.1, h.2, rfl⟩
  · rename_i h
    refine .inr ⟨?_, rfl⟩
    by_cases h1 : s.rxAcc = 0
    · right
      cases e : b
      · exact absurd ⟨h1, e⟩ h
      · rfl
    · exact .inl h1

/-- R212: a claim happens in an unaddressed module for a slot 1..63, and nothing happens otherwise. -/
theorem claimSlot_cases (g : Data11) (s : State) :
    (s.myAddr = 0 ∧ 1 ≤ g.toNat ∧ g.toNat ≤ 63 ∧
      claimSlot g s = { s with myAddr := g.setWidth 8, fwdReq := some (g + 1) }) ∨
    (¬ (s.myAddr = 0 ∧ 1 ≤ g.toNat ∧ g.toNat ≤ 63) ∧ claimSlot g s = s) := by
  by_cases h : s.myAddr = 0 ∧ 1 ≤ g.toNat ∧ g.toNat ≤ 63
  · exact .inl ⟨h.1, h.2.1, h.2.2, if_pos h⟩
  · exact .inr ⟨h, if_neg h⟩

/-- R150: what a transmit tick does, by where its number lies. -/
theorem transmitAction_cases (s : State) :
    (s.txTick < 10 * s.txLen ∧ transmitAction s = driveLine (s.elec (s.txBit s.txTick)) s) ∨
    (10 * s.txLen ≤ s.txTick ∧ s.txTick < s.txTotal - 1 ∧ transmitAction s = driveLine (s.elec true) s) ∨
    (10 * s.txLen ≤ s.txTick ∧ s.txTotal - 1 ≤ s.txTick ∧
      transmitAction s = { releaseLine s with txBusy := false, clkRun := false }) := by
  unfold transmitAction
  split
  · rename_i h
    exact .inl ⟨h, rfl⟩
  · rename_i h
    split
    · rename_i h2
      exact .inr (.inl ⟨by omega, h2, rfl⟩)
    · rename_i h2
      exact .inr (.inr ⟨by omega, by omega, rfl⟩)

/-! ### The agenda -/

theorem runRequest_next {r : Request} {s t : State} :
    runRequest r s = .next t ↔
      ∃ i, decode s.cfg r = .ok i ∧ (s.asleep = false ∨ fromLine i = true) ∧ exec i s = .next t := by
  unfold runRequest
  split
  · rename_i i h
    by_cases ha : s.asleep = true ∧ fromLine i = false
    · rw [if_pos ha]
      simp [h, ha]
    · rw [if_neg ha]
      have hb : s.asleep = false ∨ fromLine i = true := by
        cases h1 : s.asleep
        · exact .inl rfl
        · cases h2 : fromLine i
          · exact absurd ⟨h1, h2⟩ ha
          · exact .inr rfl
      simp [h, hb]
  · rename_i e h
    simp [h]

/-- What the decoder gives is well formed, and its operands fit the configuration. -/
theorem decode_wf {c : Config} {r : Request} {i : Instr} (h : decode c r = .ok i) :
    i.wf = true ∧ i.fits c = true := by
  unfold decode checked at h
  split at h
  · split at h
    · rename_i hw
      cases h
      exact (Bool.and_eq_true _ _).mp hw
    · cases h
  · cases h

/-- One step: a raised EDGE, a raised TICK, nothing to do, or the next input. -/
theorem stepOnce_next {s t : State} (h : stepOnce s = .next t) :
    (s.edgePend = true ∧ t = takeEdge s) ∨
    (s.edgePend = false ∧ s.tickPend = true ∧ s.polDetected = true ∧
      ∃ c, s.tickCase = some c ∧ t = runTick c s.lineIn s) ∨
    (s.edgePend = false ∧ s.tickPend = false ∧ s.inputs = [] ∧ t = s) ∨
    (s.edgePend = false ∧ s.tickPend = false ∧
      ∃ i rest, s.inputs = i :: rest ∧ runInput i { s with inputs := rest } = .next t) := by
  unfold stepOnce at h
  split at h
  · rename_i h1
    simp only [Host.Outcome.next.injEq] at h
    exact .inl ⟨h1, h.symm⟩
  · rename_i h1
    have h1' : s.edgePend = false := by simpa using h1
    split at h
    · rename_i h2
      unfold serveTick at h
      split at h
      · rename_i c hc
        split at h
        · rename_i hp
          simp only [Host.Outcome.next.injEq] at h
          exact .inr (.inl ⟨h1', h2, hp, c, hc, h.symm⟩)
        · cases h
      · cases h
    · rename_i h2
      have h2' : s.tickPend = false := by simpa using h2
      split at h
      · rename_i h3
        simp only [Host.Outcome.next.injEq] at h
        exact .inr (.inr (.inl ⟨h1', h2', h3, h.symm⟩))
      · rename_i i rest h3
        exact .inr (.inr (.inr ⟨h1', h2', i, rest, h3, h⟩))

end Machine
end Sys2Proof
end

