-- ==== Sys2Proof/Safety.lean ====
section
/-! DEFINITION. What counts as a legal state of the block: the ranges of R49 and the relations between registers
that the rules state or use. -/

namespace Sys2Proof
namespace Machine

/-- The invariant of the machine. -/
structure State.Inv (s : State) : Prop where
  /-- R8: the configuration meets its constraints -/
  config : s.cfg.wf = true
  /-- R24 -/
  bitcnt : s.rxBitcnt ≤ 8
  /-- R26 -/
  count : s.rxCount ≤ s.cfg.rxbufLen
  /-- R27 -/
  len : 1 ≤ s.rxLen ∧ s.rxLen ≤ s.cfg.rxbufLen
  /-- R29, R60: canonical, inside its bounds, and every byte below `rx_count` received -/
  rxbuf : s.rxbuf.wf = true ∧ s.rxbuf.within s.cfg.rxbufLen = true ∧ ∀ a, a < s.rxCount → (s.rxbuf.cell a).isSome = true
  /-- R32, R60: canonical, inside its bounds, and every byte below `tx_len` loaded -/
  txbuf : s.txbuf.wf = true ∧ s.txbuf.within s.cfg.txbufLen = true ∧ ∀ a, a < s.txLen → (s.txbuf.cell a).isSome = true
  /-- R37, R60: canonical, inside its bounds, and each of the newest `m_rx_since` bytes captured -/
  ring : s.ring.wf = true ∧ s.ring.within s.cfg.ringLen = true ∧
    ∀ k, k < s.mRxSince → (s.ring.cell ((s.ringWr + s.cfg.ringLen - 1 - k) % s.cfg.ringLen)).isSome = true
  /-- R31 -/
  clkCnt : s.clkCnt ≤ s.cfg.bitTicks
  /-- R32 -/
  txLen : s.txLen ≤ s.cfg.txbufLen
  /-- R33 -/
  txTick : s.txTick ≤ 10 * s.cfg.txbufLen + s.cfg.turnaround
  /-- R150: a transmission in progress has ticks left -/
  busy : s.txBusy = true → 1 ≤ s.txLen ∧ s.txTick < s.txTotal
  /-- R30, R134: the bit clock runs exactly during a byte slot or a transmission -/
  clock : s.clkRun = (s.txBusy || s.rxFsm != .waitEdge)
  /-- R34: no reception takes place during a transmission -/
  exclusive : s.txBusy = true → s.rxFsm = .waitEdge
  /-- R35, R153: the driver is enabled only during a transmission -/
  driver : s.lineOe = true → s.txBusy = true
  /-- R271: an EDGE is pending only where it is enabled -/
  edgePend : s.edgePend = true → s.edgeEnabled = true
  /-- R271: a TICK is pending only while the clock runs -/
  tickPend : s.tickPend = true → s.clkRun = true
  /-- R47: `line_prev` is the logical level on the line -/
  linePrev : s.polDetected = true → s.linePrev = s.logical s.lineIn
  /-- R281: only a module's host sleeps, and an EDGE wakes it -/
  sleep : s.asleep = true → s.cfg.role = .moduleRole ∧ s.edgePend = false
  /-- R176: a break is sent before anything else -/
  phase : s.mBrk = true → s.mPhase = .start
  /-- R37 -/
  ringWr : s.ringWr < s.cfg.ringLen
  /-- R38 -/
  since : s.mRxSince ≤ s.cfg.ringLen
  /-- R40 -/
  txq : s.mTxq.length ≤ s.cfg.ringLen
  /-- R36, R40: nothing is left to send while receiving -/
  receiving : s.mDir = .rx → s.mTxq = [] ∧ s.mBrk = false
  /-- R43, R8 -/
  addr : s.myAddr.toNat ≤ Config.addrMax

end Machine
end Sys2Proof
end

