-- ==== Sys2Proof/Certificates/Slice0/Obligations.lean ====
section
/-! DEFINITION. The statements for the provers, by the numbered rules of spec/. -/

namespace Sys2Proof
namespace SpecForm
open Sys2Proof.Machine

/-! ### Forms the statements compare the model with, written from the rules and not from the model -/

/-- R113: the closed form of the encoder. -/
def closedForm (d : Data11) : Word16 :=
  let x := fun i => d.getLsbD i
  let p1 := x 10 ^^ x 9 ^^ x 7 ^^ x 6 ^^ x 4 ^^ x 2 ^^ x 0
  let p2 := x 10 ^^ x 8 ^^ x 7 ^^ x 5 ^^ x 4 ^^ x 1 ^^ x 0
  let p4 := x 9 ^^ x 8 ^^ x 7 ^^ x 3 ^^ x 2 ^^ x 1 ^^ x 0
  let p8 := x 6 ^^ x 5 ^^ x 4 ^^ x 3 ^^ x 2 ^^ x 1 ^^ x 0
  let all := x 0 ^^ x 1 ^^ x 2 ^^ x 3 ^^ x 4 ^^ x 5 ^^ x 6 ^^ x 7 ^^ x 8 ^^ x 9 ^^ x 10
  let q := p1 ^^ p2 ^^ p4 ^^ p8 ^^ all
  let b := fun v => BitVec.ofBool v
  b q ++ b (x 0) ++ b (x 1) ++ b (x 2) ++ b (x 3) ++ b (x 4) ++ b (x 5) ++ b (x 6) ++
    b p8 ++ b (x 7) ++ b (x 8) ++ b (x 9) ++ b p4 ++ b (x 10) ++ b p2 ++ b p1

/-- R110: the code positions of the data bits. -/
def dataPos : List Nat := [3, 5, 6, 7, 9, 10, 11, 12, 13, 14, 15]

/-- R9: a word with the single bit `k` set. -/
def oneBit (k : Nat) : Word16 := 1#16 <<< k

/-- R192: the loop body of CRC.UPDATE. -/
def crcLoop (x : Word16) : Word16 := if x.getLsbD 15 = true then (x <<< 1) ^^^ 0x1021#16 else x <<< 1

/-- R9, R65: the low byte and the high byte of a word. -/
def lo (w : Word16) : Byte := w.setWidth 8
def hi (w : Word16) : Byte := (w >>> 8).setWidth 8

/-- R87: the widths of a command's fields make up the payload. -/
def Packs (c : Config) : Prop := c.addrW + 3 + c.argW = 11

/-- R8: the values of the spec, `ADDR_W` = 8, `ARG_W` = 0, `BCAST` = 0xAA, `WIDE`, low byte first. -/
def SpecPacking (c : Config) : Prop :=
  c.addrW = 8 ∧ c.argW = 0 ∧ c.bcast = 0xAA ∧ c.wide = [1, 2] ∧ c.wordOrder = .little

/-- R87, R200: `g[ARG_W-1:0]`. -/
def lowArg (c : Config) (g : Data11) : Data11 := g &&& ((1 <<< c.argW) - 1)

/-- R87, R200: the first payload of a command, `{a[ADDR_W-1:0], op[2:0], g[ARG_W-1:0]}`. -/
def firstPayload (c : Config) (a : Addr) (op : Opcode) (g : Data11) : Data11 :=
  (a.setWidth 11 <<< (3 + c.argW)) ||| (op.setWidth 11 <<< c.argW) ||| lowArg c g

/-- R201: address and opcode of a payload; its argument is `lowArg`. -/
def addrOf (c : Config) (p : Data11) : Addr := (p >>> (3 + c.argW)).setWidth 8
def opOf (c : Config) (p : Data11) : Opcode := (p >>> c.argW).setWidth 3

/-- R200, R201: the argument that reaches the receiver. -/
def carried (c : Config) (op : Opcode) (g : Data11) : Data11 := if op ∈ c.wide then g else lowArg c g

/-- R90: the instruction of an opcode. -/
def commandInstr (a : Addr) (op : Opcode) (g : Data11) : Instr :=
  if op = 0 then .getdata ⟨a, g⟩
  else if op = 1 then .setaddr a g
  else if op = 2 then .shunton a g
  else if op = 3 then .version ⟨a, g⟩
  else if op = 4 then .reserved4 ⟨a, g⟩
  else if op = 5 then .addrmode ⟨a, g⟩
  else if op = 6 then .breakCmd ⟨a, g⟩
  else .boot ⟨a, g⟩

/-- R200 to R202 in one form: the codewords of a command. -/
def commandWords (c : Config) (a : Addr) (op : Opcode) (g : Data11) : List Word16 :=
  if op ∈ c.wide then [hamEncode (firstPayload c a op g), hamEncode g] else [hamEncode (firstPayload c a op g)]

/-- Instructions one after another, stopping at the first that gives no next state. -/
def execAll : List Instr → State → Answer
  | [], s => .next s
  | i :: is, s =>
    match exec i s with
    | .next t => execAll is t
    | a => a

/-- A module whose line is usable (R265, R295). -/
def SerReady (s : State) : Prop := s.cfg.role = .moduleRole ∧ s.polDetected = true

/-- A usable module with no byte slot, no transmission and nothing raised (R301), its host awake (R281) and its polarity
the line's (R130, R300). -/
def AtRest (s : State) : Prop :=
  SerReady s ∧ s.rxFsm = .waitEdge ∧ s.txBusy = false ∧ s.edgePend = false ∧ s.asleep = false ∧ s.pol = s.cfg.lineOne

/-- R281, R132: `t`, but for the wake of a sleeping host where the line's level changes from that of `s` to `v`: `pol` has
no value from then on. -/
def wokenBy (s : State) (v : Bool) (t : State) : State :=
  if s.asleep = true ∧ v ≠ s.lineIn then { t with asleep := false, polDetected := false } else t

/-- R178, D31: the electrical level of a logical value at the master: DEFAULT makes one level logical 1, REMAPPED the
other. Which one DEFAULT makes is the configuration's (log 17). -/
def masterLevel (s : State) (b : Bool) : Bool :=
  match s.mMap with
  | .default => if b then s.cfg.mapDefaultOne else !s.cfg.mapDefaultOne
  | .remapped => if b then !s.cfg.mapDefaultOne else s.cfg.mapDefaultOne

/-- R176, R178: the logical levels `bits` at the master, one bit time each. -/
def drivenBits (s : State) (bits : List Bool) : List Span := bits.map fun b => ⟨masterLevel s b, 1⟩

/-- R178, R300: `m_map` matches the wiring. -/
def MapMatches (s : State) : Prop := masterLevel s true = s.cfg.lineOne

/-- R176 (1): the break and the gap after it, if `brk`. -/
def breakIf (c : Config) (brk : Bool) : List Bool :=
  if brk then List.replicate c.breakBits false ++ List.replicate c.breakGap true else []

/-- What a module has after the bytes `bs` arrived as frames (R137, R143): each at the next offset while in bounds,
the flag when the count passed `rx_len`, and the receive machine back in WAIT_EDGE. -/
def ReceivedBy (s : State) (bs : List Byte) (t : State) : Prop :=
  t = { s with
    rxbuf := t.rxbuf
    rxCount := min (s.rxCount + bs.length) s.cfg.rxbufLen
    frameComplete := s.frameComplete ||
      decide (s.rxCount < s.rxLen ∧ s.rxLen ≤ min (s.rxCount + bs.length) s.cfg.rxbufLen)
    rxAcc := bs.getLastD 0
    rxBitcnt := 8
    clkCnt := s.cfg.bitTicks
    clkRun := false
    tickPend := false
    lineIn := s.pol
    linePrev := true } ∧
  ∀ a, t.readByte .rxbuf a =
    if s.rxCount ≤ a ∧ a < min (s.rxCount + bs.length) s.cfg.rxbufLen then bs.getD (a - s.rxCount) 0
    else s.readByte .rxbuf a

/-- What a master has after the bytes `bs` were captured (R171). -/
def CapturedBy (s : State) (bs : List Byte) (t : State) : Prop :=
  t = { s with
    ring := t.ring
    ringWr := (s.ringWr + bs.length) % s.cfg.ringLen
    mRxSince := min (s.mRxSince + bs.length) s.cfg.ringLen } ∧
  (∀ j, j < bs.length → t.readByte .ring ((s.ringWr + j) % s.cfg.ringLen) = bs.getD j 0) ∧
  ∀ a, (∀ j, j < bs.length → a ≠ (s.ringWr + j) % s.cfg.ringLen) → t.readByte .ring a = s.readByte .ring a

/-- The formats of R80 that a receiver takes as bytes, with those bytes (R84, R64, R89, R241). -/
def lineBytes (o : WordOrder) : Instr → Option (List Byte)
  | .frame10 b => some [b]
  | .cw16 c => some (putWord o c)
  | .argw g => some (putWord o (hamEncode g))
  | .meas bs => some bs
  | .ver bs => some bs
  | .page bs => some bs
  | _ => none

end SpecForm
end Sys2Proof

open Sys2Proof Sys2Proof.Machine Sys2Proof.SpecForm

/-! ### HAM -/

/-- R112, R113. -/
def Obligations.HamEncGivesClosedForm : Prop :=
  ∀ (d : Data11) (s : State), exec (.hamEnc d) s = .next { s with result := .word (closedForm d) }

/-- R115, R117, R260. -/
def Obligations.HamDecFollowsDecisionTable : Prop :=
  ∀ (c : Word16) (s : State),
    (syndrome c = 0 → wordParity c = false →
      exec (.hamDec c) s = .next { s with result := .data (extractData c) }) ∧
    (syndrome c ≠ 0 → wordParity c = true →
      exec (.hamDec c) s = .next { s with result := .data (extractData (c ^^^ oneBit ((syndrome c).toNat - 1))) }) ∧
    (syndrome c = 0 → wordParity c = true →
      exec (.hamDec c) s = .next { s with result := .exception (.decodeError 0 true) }) ∧
    (syndrome c ≠ 0 → wordParity c = false →
      exec (.hamDec c) s = .next { s with result := .exception (.decodeError (syndrome c) false) })

/-- R111, R114, R116. -/
def Obligations.SyndromeParityAndExtractByPosition : Prop :=
  ∀ c : Word16,
    (∀ k, k < 4 → (syndrome c).getLsbD k =
      ((List.range' 1 15).filter (fun p => p.testBit k)).foldl (fun x p => x ^^ c.getLsbD (p - 1)) false) ∧
    wordParity c = (List.range 16).foldl (fun x i => x ^^ c.getLsbD i) false ∧
    (∀ j, j < 11 → (extractData c).getLsbD (10 - j) = c.getLsbD (dataPos.getD j 0 - 1))

/-- R112's postconditions and the round trip of S1. -/
def Obligations.HamEncodeThenDecodeIsIdentity : Prop :=
  ∀ (d : Data11) (s : State),
    syndrome (hamEncode d) = 0 ∧ wordParity (hamEncode d) = false ∧
    exec (.hamDec (hamEncode d)) s = .next { s with result := .data d }

/-- R118 (b), (c), (d), which the spec derives, and R119: one flipped bit is corrected but for bit 15, and no two flipped
bits are accepted. -/
def Obligations.HamDecOneAndTwoFlippedBits : Prop :=
  ∀ (d : Data11) (s : State),
    (∀ k, k < 15 → exec (.hamDec (hamEncode d ^^^ oneBit k)) s = .next { s with result := .data d }) ∧
    exec (.hamDec (hamEncode d ^^^ oneBit 15)) s = .next { s with result := .exception (.decodeError 0 true) } ∧
    (∀ j k, j < k → k < 16 → ∃ syn,
      exec (.hamDec (hamEncode d ^^^ oneBit j ^^^ oneBit k)) s =
        .next { s with result := .exception (.decodeError syn false) })

/-- R118 (e): three flipped bits never give the right data; the decoder answers DecodeError or a wrong value. -/
def Obligations.HamDecThreeFlippedBitsNeverRight : Prop :=
  ∀ (d : Data11) (s : State) (i j k : Nat), i < j → j < k → k < 16 →
    let w := hamEncode d ^^^ oneBit i ^^^ oneBit j ^^^ oneBit k
    (syndrome w = 0 ∧ exec (.hamDec w) s = .next { s with result := .exception (.decodeError 0 true) }) ∨
    (syndrome w ≠ 0 ∧ ∃ d', d' ≠ d ∧ exec (.hamDec w) s = .next { s with result := .data d' })

/-! ### The CRC engine -/

/-- R191, R192. Neither operation has a result: the field `result` then holds none (the model's, log 4). -/
def Obligations.CrcInitAndUpdateFollowTheLoop : Prop :=
  ∀ (b : Byte) (s : State),
    exec .crcInit s = .next { s with crc := 0, result := .none } ∧
    exec (.crcUpdate b) s =
      .next { s with crc := crcLoop^[8] (s.crc ^^^ (b.setWidth 16 <<< 8)), result := .none }

/-- R193. -/
def Obligations.CrcBlockIsInitThenUpdates : Prop :=
  ∀ (bs : List Byte) (s : State), ∃ c : Word16,
    exec (.crcBlock bs) s = .next { s with crc := c, result := .word c } ∧
    (∃ r, execAll (.crcInit :: bs.map .crcUpdate) s = .next { s with crc := c, result := r }) ∧
    (bs = [] → c = 0) ∧
    (∀ s' : State, ∃ r, exec (.crcBlock bs) s' = .next { s' with crc := c, result := r })

/-- R194 (a), (b), (c). -/
def Obligations.CrcLinearityAndResidues : Prop :=
  (∀ (as bs : List Byte), as.length = bs.length →
    crcBlock (List.zipWith (· ^^^ ·) as bs) = crcBlock as ^^^ crcBlock bs) ∧
  (∀ (as : List Byte), crcBlock (as ++ [hi (crcBlock as), lo (crcBlock as)]) = 0) ∧
  (∀ (as : List Byte), lo (crcBlock as) = hi (crcBlock as) →
    crcBlock (as ++ [lo (crcBlock as), hi (crcBlock as)]) = 0) ∧
  (∃ (as : List Byte), crcBlock (as ++ [lo (crcBlock as), hi (crcBlock as)]) ≠ 0)

/-! ### Blocks -/

/-- R244 (R93), with the spec's byte order. -/
def Obligations.MeasBuildLaysOutTheBlock : Prop :=
  ∀ (v0 v1 v2 v3 v4 : Word16) (s : State), s.cfg.role = .moduleRole → s.cfg.wordOrder = .little →
    let body := [s.myAddr, lo v0, hi v0, lo v1, hi v1, lo v2, hi v2, lo v3, hi v3, lo v4, hi v4]
    exec (.measBuild v0 v1 v2 v3 v4) s =
      .next { s with crc := crcBlock body, result := .bytes (body ++ [lo (crcBlock body), hi (crcBlock body)]) }

/-- R246 (R94) and R248 (R95), with the spec's byte order. -/
def Obligations.VerAndPageBuildLayOutTheBlock : Prop :=
  (∀ (sw hw : List Byte) (sn : BitVec 32) (s : State), s.cfg.role = .moduleRole → s.cfg.wordOrder = .little →
    sw.length = 4 → hw.length = 2 →
    let body := sw ++ hw ++ [sn.setWidth 8, (sn >>> 8).setWidth 8, (sn >>> 16).setWidth 8, (sn >>> 24).setWidth 8]
    exec (.verBuild sw hw sn) s =
      .next { s with crc := crcBlock body, result := .bytes (body ++ [lo (crcBlock body), hi (crcBlock body)]) }) ∧
  (∀ (n : Byte) (ws : List Word16) (s : State), s.cfg.role = .masterRole → s.cfg.wordOrder = .little →
    ws.length = 32 →
    let body := n :: ws.flatMap (fun w => [lo w, hi w])
    exec (.pageBuild n ws) s =
      .next { s with crc := crcBlock body, result := .bytes (body ++ [lo (crcBlock body), hi (crcBlock body)]) })

/-- R245 (R242, R261), with the spec's byte order. -/
def Obligations.MeasCheckComparesTheTrailer : Prop :=
  ∀ (a l0 h0 l1 h1 l2 h2 l3 h3 l4 h4 cl ch : Byte) (s : State), s.cfg.role = .masterRole → s.cfg.wordOrder = .little →
    let body := [a, l0, h0, l1, h1, l2, h2, l3, h3, l4, h4]
    (crcBlock body = ch ++ cl →
      exec (.measCheck (body ++ [cl, ch])) s =
        .next { s with
          crc := crcBlock body, result := .meas a [h0 ++ l0, h1 ++ l1, h2 ++ l2, h3 ++ l3, h4 ++ l4] }) ∧
    (crcBlock body ≠ ch ++ cl →
      exec (.measCheck (body ++ [cl, ch])) s =
        .next { s with
          crc := crcBlock body, result := .exception (.crcMismatch (crcBlock body) (ch ++ cl)) })

/-- R247 and R249 (R242, R261), with the spec's byte order. -/
def Obligations.VerAndPageCheckCompareTheTrailer : Prop :=
  (∀ (a0 a1 a2 a3 b0 b1 n0 n1 n2 n3 cl ch : Byte) (s : State), s.cfg.role = .masterRole →
    s.cfg.wordOrder = .little →
    let body := [a0, a1, a2, a3, b0, b1, n0, n1, n2, n3]
    (crcBlock body = ch ++ cl →
      exec (.verCheck (body ++ [cl, ch])) s =
        .next { s with
          crc := crcBlock body, result := .version [a0, a1, a2, a3] [b0, b1] (n3 ++ n2 ++ n1 ++ n0) }) ∧
    (crcBlock body ≠ ch ++ cl →
      exec (.verCheck (body ++ [cl, ch])) s =
        .next { s with
          crc := crcBlock body, result := .exception (.crcMismatch (crcBlock body) (ch ++ cl)) })) ∧
  (∀ (n : Byte) (ws : List (Byte × Byte)) (cl ch : Byte) (s : State), s.cfg.role = .moduleRole →
    s.cfg.wordOrder = .little → ws.length = 32 →
    let body := n :: ws.flatMap (fun w => [w.1, w.2])
    (crcBlock body = ch ++ cl →
      exec (.pageCheck (body ++ [cl, ch])) s =
        .next { s with crc := crcBlock body, result := .page n (ws.map fun w => w.2 ++ w.1) }) ∧
    (crcBlock body ≠ ch ++ cl →
      exec (.pageCheck (body ++ [cl, ch])) s =
        .next { s with
          crc := crcBlock body, result := .exception (.crcMismatch (crcBlock body) (ch ++ cl)) }))

/-- R242: whatever one block builds, a block of the other role checks and takes apart again, in either byte order. -/
def Obligations.BuiltBlocksPassTheirCheck : Prop :=
  ∀ (m s : State), m.cfg.role = .masterRole → s.cfg.role = .moduleRole → m.cfg.wordOrder = s.cfg.wordOrder →
    (∀ v0 v1 v2 v3 v4 : Word16, ∃ bs c,
      exec (.measBuild v0 v1 v2 v3 v4) s = .next { s with crc := c, result := .bytes bs } ∧ bs.length = 13 ∧
      exec (.measCheck bs) m = .next { m with crc := c, result := .meas s.myAddr [v0, v1, v2, v3, v4] }) ∧
    (∀ (sw hw : List Byte) (sn : BitVec 32), sw.length = 4 → hw.length = 2 → ∃ bs c,
      exec (.verBuild sw hw sn) s = .next { s with crc := c, result := .bytes bs } ∧ bs.length = 12 ∧
      exec (.verCheck bs) m = .next { m with crc := c, result := .version sw hw sn }) ∧
    (∀ (n : Byte) (ws : List Word16), ws.length = 32 → ∃ bs c,
      exec (.pageBuild n ws) m = .next { m with crc := c, result := .bytes bs } ∧ bs.length = 67 ∧
      exec (.pageCheck bs) s = .next { s with crc := c, result := .page n ws })

/-- A consequence of R190 and R242: a block that checks, with any one byte changed, is rejected with CrcMismatch. -/
def Obligations.OneChangedByteIsRejected : Prop :=
  ∀ (s : State) (bs : List Byte) (i : Nat) (b : Byte), i < bs.length → b ≠ bs.getD i 0 →
    (s.cfg.role = .masterRole → bs.length = 13 →
      (∃ t a vs, exec (.measCheck bs) s = .next t ∧ t.result = .meas a vs) →
      ∃ t x y, exec (.measCheck (bs.set i b)) s = .next t ∧ t.result = .exception (.crcMismatch x y)) ∧
    (s.cfg.role = .masterRole → bs.length = 12 →
      (∃ t sw hw sn, exec (.verCheck bs) s = .next t ∧ t.result = .version sw hw sn) →
      ∃ t x y, exec (.verCheck (bs.set i b)) s = .next t ∧ t.result = .exception (.crcMismatch x y)) ∧
    (s.cfg.role = .moduleRole → bs.length = 67 →
      (∃ t n ws, exec (.pageCheck bs) s = .next t ∧ t.result = .page n ws) →
      ∃ t x y, exec (.pageCheck (bs.set i b)) s = .next t ∧ t.result = .exception (.crcMismatch x y))

/-! ### Commands -/

/-- R200, R201, for every packing that R87 allows; with `ADDR_W` = 8 and `ARG_W` = 0 the first payload is
`(a << 3) | op`. -/
def Obligations.CmdPackAndUnpack : Prop :=
  ∀ (a : Addr) (op : Opcode) (g p : Data11) (s : State), Packs s.cfg →
    (op ∈ s.cfg.wide →
      exec (.cmdPack a op g) s = .next { s with result := .payloads [firstPayload s.cfg a op g, g] }) ∧
    (op ∉ s.cfg.wide →
      exec (.cmdPack a op g) s = .next { s with result := .payloads [firstPayload s.cfg a op g] }) ∧
    (s.cfg.argW = 0 → op ∉ s.cfg.wide → exec (.cmdPack a op g) s =
      .next { s with result := .payloads [(a.setWidth 11 <<< 3) ||| op.setWidth 11] }) ∧
    exec (.cmdUnpack p) s =
      .next { s with result := .unpacked (addrOf s.cfg p) (opOf s.cfg p) (lowArg s.cfg p) } ∧
    (a.toNat < 2 ^ s.cfg.addrW →
      exec (.cmdUnpack (firstPayload s.cfg a op g)) s =
        .next { s with result := .unpacked a op (lowArg s.cfg g) })

/-- R202, with the spec's byte order (R64). -/
def Obligations.CmdEncodeSendsLowBytesFirst : Prop :=
  ∀ (a : Addr) (op : Opcode) (g : Data11) (s : State), Packs s.cfg → s.cfg.wordOrder = .little →
    exec (.cmdEncode a op g) s =
      .next { s with result := .bytes ((commandWords s.cfg a op g).flatMap fun w => [lo w, hi w]) }

/-- R204, R273, with the spec's byte order. -/
def Obligations.CmdDecodeFollowsItsRule : Prop :=
  ∀ (b0 b1 : Byte) (rest : List Byte) (s : State), Packs s.cfg → s.cfg.wordOrder = .little →
    (rest = [] ∨ rest.length = 2) →
    (∀ e, hamDecode (b1 ++ b0) = .error e →
      exec (.cmdDecode (b0 :: b1 :: rest)) s = .next { s with result := .exception e }) ∧
    (∀ p, hamDecode (b1 ++ b0) = .ok p →
      (opOf s.cfg p ∉ s.cfg.wide →
        exec (.cmdDecode (b0 :: b1 :: rest)) s =
          .next { s with result := .command (addrOf s.cfg p) (opOf s.cfg p) (lowArg s.cfg p) }) ∧
      (opOf s.cfg p ∈ s.cfg.wide →
        (rest = [] → exec (.cmdDecode (b0 :: b1 :: rest)) s = .next { s with result := .needMore }) ∧
        (∀ b2 b3, rest = [b2, b3] →
          (∀ e, hamDecode (b3 ++ b2) = .error e →
            exec (.cmdDecode (b0 :: b1 :: rest)) s = .next { s with result := .exception e }) ∧
          (∀ g, hamDecode (b3 ++ b2) = .ok g →
            exec (.cmdDecode (b0 :: b1 :: rest)) s =
              .next { s with result := .command (addrOf s.cfg p) (opOf s.cfg p) g }))))

/-- R201, R202, R204 with R118 (b): a command decodes to itself, also with one of the bits 0..14 of each of its
words flipped, in either byte order. -/
def Obligations.CommandSurvivesOneErrorPerWord : Prop :=
  ∀ (a : Addr) (op : Opcode) (g : Data11) (s : State) (e0 e1 : Word16), Packs s.cfg → a.toNat < 2 ^ s.cfg.addrW →
    (e0 = 0 ∨ ∃ k, k < 15 ∧ e0 = oneBit k) → (e1 = 0 ∨ ∃ k, k < 15 ∧ e1 = oneBit k) →
    (op ∉ s.cfg.wide →
      exec (.cmdDecode (putWord s.cfg.wordOrder (hamEncode (firstPayload s.cfg a op g) ^^^ e0))) s =
        .next { s with result := .command a op (lowArg s.cfg g) }) ∧
    (op ∈ s.cfg.wide →
      exec (.cmdDecode (putWord s.cfg.wordOrder (hamEncode (firstPayload s.cfg a op g) ^^^ e0) ++
        putWord s.cfg.wordOrder (hamEncode g ^^^ e1))) s = .next { s with result := .command a op g })

/-- R203: M.SEND 1 of what CMD.ENCODE gives, under M.SEND's precondition (R175). -/
def Obligations.CmdSendIsBreakThenTheEncodedBytes : Prop :=
  ∀ (a : Addr) (op : Opcode) (g : Data11) (m : State), m.cfg.role = .masterRole → m.mDir = .rx → 4 ≤ m.cfg.ringLen →
    ∃ bs, exec (.cmdEncode a op g) m = .next { m with result := .bytes bs } ∧
      exec (.cmdSend a op g) m = exec (.mSend true bs) m ∧
      ∃ t, exec (.cmdSend a op g) m = .next t ∧ t.mDir = .tx ∧ t.mBrk = true ∧ t.mTxq = bs

/-- R206 (R260), with the spec's byte order. A command that decodes is offered to FILTER as its own row is (the row being
that offer is the model's choice, log 12); that the block's part of it is done in the same step is the model's reading
(log 11). -/
def Obligations.CmdRecvFollowsItsRule : Prop :=
  ∀ s : State, s.cfg.role = .moduleRole → Packs s.cfg → s.cfg.wordOrder = .little →
    let w0 : Word16 := s.readByte .rxbuf 1 ++ s.readByte .rxbuf 0
    let w1 : Word16 := s.readByte .rxbuf 3 ++ s.readByte .rxbuf 2
    let after := fun n : Nat => ({ s with rxLen := n, frameComplete := false } : State)
    (s.rxCount < 2 → exec .cmdRecv s = .next { s with result := .noCommand }) ∧
    (2 ≤ s.rxCount → s.rxLen = 2 → s.frameComplete = false →
      exec .cmdRecv s = .next { s with result := .noCommand }) ∧
    (2 ≤ s.rxCount → (s.rxLen ≠ 2 ∨ s.frameComplete = true) →
      (∀ e, hamDecode w0 = .error e → exec .cmdRecv s = .next { after 2 with result := .noCommand }) ∧
      (∀ p, hamDecode w0 = .ok p →
        (opOf s.cfg p ∉ s.cfg.wide →
          exec .cmdRecv s = exec (commandInstr (addrOf s.cfg p) (opOf s.cfg p) (lowArg s.cfg p)) (after 2) ∧
          ∃ t, exec .cmdRecv s = .next t) ∧
        (opOf s.cfg p ∈ s.cfg.wide →
          (s.rxCount < 4 → exec .cmdRecv s = .next { after 4 with result := .noCommand }) ∧
          (4 ≤ s.rxCount →
            (∀ e, hamDecode w1 = .error e → exec .cmdRecv s = .next { after 2 with result := .noCommand }) ∧
            (∀ g, hamDecode w1 = .ok g →
              exec .cmdRecv s = exec (commandInstr (addrOf s.cfg p) (opOf s.cfg p) g) (after 2) ∧
              ∃ t, exec .cmdRecv s = .next t)))))

/-- R207 (R91 (b), R218). -/
def Obligations.FilterFollowsItsRule : Prop :=
  ∀ (a : Addr) (op : Opcode) (g : Data11) (s : State), s.cfg.role = .moduleRole →
    (op = 4 → exec (.filter a op g) s = .next { s with result := .noCommand }) ∧
    (op ≠ 4 → a = s.cfg.bcast → exec (.filter a op g) s = .next { s with result := .delivered a op g true }) ∧
    (op ≠ 4 → a ≠ s.cfg.bcast → a ≠ 0 → a = s.myAddr →
      exec (.filter a op g) s = .next { s with result := .delivered a op g false }) ∧
    (op ≠ 4 → a ≠ s.cfg.bcast → (a = 0 ∨ a ≠ s.myAddr) →
      exec (.filter a op g) s = .next { s with result := .noCommand })

/-- R211, R213, R214, R216, R217, block part, and R218: what passes the filter is delivered and changes nothing in
the block; that the row stands for a command offered to the filter is the model's choice (log 12). -/
def Obligations.CommandsDeliveredWithoutBlockEffect : Prop :=
  ∀ (a : Addr) (g : Data11) (s : State), s.cfg.role = .moduleRole →
    (∀ i op, (i, op) ∈ [(Instr.getdata ⟨a, g⟩, (0 : Opcode)), (.shunton a g, 2), (.version ⟨a, g⟩, 3),
        (.breakCmd ⟨a, g⟩, 6), (.boot ⟨a, g⟩, 7)] →
      (a = s.cfg.bcast → exec i s = .next { s with result := .delivered a op g true }) ∧
      (a ≠ s.cfg.bcast → a ≠ 0 → a = s.myAddr → exec i s = .next { s with result := .delivered a op g false }) ∧
      (a ≠ s.cfg.bcast → (a = 0 ∨ a ≠ s.myAddr) → exec i s = .next { s with result := .noCommand })) ∧
    exec (.reserved4 ⟨a, g⟩) s = .next { s with result := .noCommand }

/-- R212 (R207, R43). That the row is the command offered to the filter is the model's choice (log 12), that delivery and
the block's part are one step its reading (log 11), and the field `fwdReq` that holds the request is its own (log 15). -/
def Obligations.SetaddrClaimsASlotOnce : Prop :=
  ∀ (a : Addr) (g : Data11) (s : State), s.cfg.role = .moduleRole →
    (a = s.cfg.bcast → s.myAddr = 0 → 1 ≤ g.toNat → g.toNat ≤ 63 →
      exec (.setaddr a g) s = .next { s with
        myAddr := BitVec.ofNat 8 g.toNat, fwdReq := some (g + 1), result := .delivered a 1 g true }) ∧
    (a = s.cfg.bcast → (s.myAddr ≠ 0 ∨ g.toNat = 0 ∨ 63 < g.toNat) →
      exec (.setaddr a g) s = .next { s with result := .delivered a 1 g true }) ∧
    (a ≠ s.cfg.bcast → a ≠ 0 → a = s.myAddr →
      exec (.setaddr a g) s = .next { s with result := .delivered a 1 g false }) ∧
    (a ≠ s.cfg.bcast → (a = 0 ∨ a ≠ s.myAddr) → exec (.setaddr a g) s = .next { s with result := .noCommand })

/-- R215 (R207). That the row is the command offered to the filter is the model's choice (log 12), that delivery and the
block's part are one step its reading (log 11). A FORWARD request stays, which is the model's choice (log 15). -/
def Obligations.AddrmodeDropsTheAddress : Prop :=
  ∀ (a : Addr) (g : Data11) (s : State), s.cfg.role = .moduleRole →
    (a = s.cfg.bcast → exec (.addrmode ⟨a, g⟩) s = .next { s with myAddr := 0, result := .delivered a 5 g true }) ∧
    (a ≠ s.cfg.bcast → a ≠ 0 → a = s.myAddr →
      exec (.addrmode ⟨a, g⟩) s = .next { s with myAddr := 0, result := .delivered a 5 g false }) ∧
    (a ≠ s.cfg.bcast → (a = 0 ∨ a ≠ s.myAddr) → exec (.addrmode ⟨a, g⟩) s = .next { s with result := .noCommand })

/-- R43: `my_addr` is written only by the execution of SETADDR and ADDRMODE, by name or delivered by CMD.RECV (one step:
the model's reading, log 11); no instruction changes the configuration (R20) or the agenda, which is the model's own
field (log 1). -/
def Obligations.OnlyAddressCommandsWriteMyAddr : Prop :=
  ∀ (i : Instr) (s t : State), exec i s = .next t →
    t.cfg = s.cfg ∧ t.inputs = s.inputs ∧
    (t.myAddr ≠ s.myAddr → (∃ a g, i = .setaddr a g) ∨ (∃ a, i = .addrmode a) ∨ i = .cmdRecv)

/-- R219: FORWARD sends the SETADDR broadcast for its slot. The request `fwdReq` it serves is the model's (log 15), and
so is the empty `result` (log 4). -/
def Obligations.ForwardStartsTheSetaddrBroadcast : Prop :=
  ∀ (slot : Data11) (s : State), SerReady s → s.rxFsm = .waitEdge → s.txBusy = false → SpecPacking s.cfg →
    13 ≤ s.cfg.txbufLen →
    let bs := [0xA4, 0x45, lo (hamEncode slot), hi (hamEncode slot)]
    ∃ t, exec (.forward slot) s = .next t ∧
      t = { s with
        txbuf := t.txbuf, txLen := 4, txTick := 0, txBusy := true, clkCnt := s.cfg.bitTicks, clkRun := true
        fwdReq := if s.fwdReq = some slot then none else s.fwdReq, result := .none } ∧
      (∀ a, t.readByte .txbuf a = if a < 4 then bs.getD a 0 else s.readByte .txbuf a)

/-- A command that a master sends is received and delivered by a module at rest, bit by bit over the line (R89, R137,
R175, R202, R206): the module's CMD.RECV then does what the command's own row does. That the break and the frames are
rows, put on the line in front of the receiver, is the model's choice (log 13), and so is the command's row as an offer
to the filter (log 12). -/
def Obligations.SentCommandIsReceived : Prop :=
  ∀ (a : Addr) (op : Opcode) (g : Data11) (m s : State),
    m.cfg.role = .masterRole → m.mDir = .rx → 4 ≤ m.cfg.ringLen →
    AtRest s → 4 ≤ s.cfg.rxbufLen → Packs m.cfg → a.toNat < 2 ^ m.cfg.addrW →
    m.cfg.addrW = s.cfg.addrW → m.cfg.argW = s.cfg.argW → m.cfg.wide = s.cfg.wide →
    m.cfg.wordOrder = s.cfg.wordOrder →
    ∃ m' t, exec (.cmdSend a op g) m = .next m' ∧
      execAll (.break10 :: m'.mTxq.map .frame10) s = .next t ∧
      exec .cmdRecv t = exec (commandInstr a op (carried s.cfg op g)) { t with rxLen := 2, frameComplete := false }

/-! ### SER, module side -/

/-- R130. That POL.DETECT has run is remembered in the model's field `polDetected` (log 7), and `sample()` is its field
`lineIn` (log 9). -/
def Obligations.PolDetectTakesTheIdleLevel : Prop :=
  ∀ s : State, s.cfg.role = .moduleRole →
    exec .polDetect s = .next { s with
      pol := s.lineIn, linePrev := true, polDetected := true, result := .polarity s.lineIn }

/-- R133; that the handler's start clears `edge_pend` is R271; that the row leaves `line_prev` alone is the model's reading
(log 27). The host is awake; an EDGE wakes a sleeping one (R281), which `SleepAndWake` states of a level. -/
def Obligations.EdgeStartsASlotOnlyWhenArmed : Prop :=
  ∀ s : State, SerReady s → s.asleep = false →
    (s.rxFsm = .waitEdge → s.txBusy = false →
      exec .edge s = .next { s with
        edgePend := false, rxFsm := .waitStart, clkCnt := s.cfg.bitTicks / 2, clkRun := true }) ∧
    ((s.rxFsm ≠ .waitEdge ∨ s.txBusy = true) → exec .edge s = .next { s with edgePend := false })

/-- R135, R136 (R134). That the sampled level is also the detector's view of the line, `lineIn` and `line_prev`, is the
model's (log 9). A change of the level wakes a sleeping host (R281, log 28). -/
def Obligations.TickSamplesStartAndDataBits : Prop :=
  ∀ (v : Bool) (s : State), SerReady s → s.clkRun = true → s.txBusy = false →
    (s.rxFsm = .waitStart →
      exec (.tickRxStart v) s = .next (wokenBy s v { s with
        rxAcc := 0, rxBitcnt := 0, rxFsm := .receiving, clkCnt := s.cfg.bitTicks, tickPend := false
        lineIn := v, linePrev := (v == s.pol) })) ∧
    (s.rxFsm = .receiving → s.rxBitcnt < 8 → ∃ t,
      exec (.tickRxData v) s = .next t ∧
      t = wokenBy s v { s with
        rxAcc := t.rxAcc, rxBitcnt := s.rxBitcnt + 1, clkCnt := s.cfg.bitTicks, tickPend := false
        lineIn := v, linePrev := (v == s.pol) } ∧
      ∀ k, k < 8 → t.rxAcc.getLsbD k = if k = s.rxBitcnt then (v == s.pol) else s.rxAcc.getLsbD k)

/-- R137 (R134, R139). That the sampled level is also the detector's view of the line, `lineIn` and `line_prev`, is the
model's (log 9). A change of the level wakes a sleeping host (R281, log 28). -/
def Obligations.StopBitTickDisposesOfTheSlot : Prop :=
  ∀ (v : Bool) (s : State), SerReady s → s.clkRun = true → s.txBusy = false →
    s.rxFsm = .receiving → s.rxBitcnt = 8 →
    let b := (v == s.pol)
    ∃ t, exec (.tickRxStop v) s = .next t ∧
      (s.rxAcc = 0 → b = false →
        t = wokenBy s v { s with
          rxCount := 0, frameComplete := false, rxFsm := .waitEdge, clkRun := false
          clkCnt := s.cfg.bitTicks, tickPend := false, lineIn := v, linePrev := b }) ∧
      ((s.rxAcc ≠ 0 ∨ b = true) → s.rxCount < s.cfg.rxbufLen →
        t = wokenBy s v { s with
          rxbuf := t.rxbuf, rxCount := s.rxCount + 1
          frameComplete := if s.rxCount + 1 = s.rxLen then true else s.frameComplete
          rxFsm := .waitEdge, clkRun := false
          clkCnt := s.cfg.bitTicks, tickPend := false, lineIn := v, linePrev := b } ∧
        ∀ a, t.readByte .rxbuf a = if a = s.rxCount then s.rxAcc else s.readByte .rxbuf a) ∧
      ((s.rxAcc ≠ 0 ∨ b = true) → s.cfg.rxbufLen ≤ s.rxCount →
        t = wokenBy s v { s with
          rxFsm := .waitEdge, clkRun := false
          clkCnt := s.cfg.bitTicks, tickPend := false, lineIn := v, linePrev := b })

/-- R150 (R149, R134). The detector's view of the driven and of the released line, `lineIn` and `line_prev`, is the
model's (log 9). That the release raises no EDGE where `pol` is not the level at which the line rests is the model's
choice (log 30). A change of the level, though this block makes it, wakes a sleeping host (R281, log 28). -/
def Obligations.TransmitTickDrivesOneBit : Prop :=
  ∀ (v : Bool) (s : State), SerReady s → s.clkRun = true → s.txBusy = true →
    let level := fun b : Bool => if b then s.pol else !s.pol
    let bit := if s.txTick % 10 = 0 then false
      else if s.txTick % 10 = 9 then true else (s.readByte .txbuf (s.txTick / 10)).getLsbD (s.txTick % 10 - 1)
    let after := ({ s with txTick := s.txTick + 1, clkCnt := s.cfg.bitTicks, tickPend := false } : State)
    (s.txTick < 10 * s.txLen →
      exec (.tickTx v) s = .next (wokenBy s (level bit) { after with
        lineOe := true, lineOut := level bit, lineIn := level bit, linePrev := bit })) ∧
    (10 * s.txLen ≤ s.txTick → s.txTick + 1 < 10 * s.txLen + s.cfg.turnaround →
      exec (.tickTx v) s = .next (wokenBy s (level true) { after with
        lineOe := true, lineOut := level true, lineIn := level true, linePrev := true })) ∧
    (10 * s.txLen ≤ s.txTick → 10 * s.txLen + s.cfg.turnaround ≤ s.txTick + 1 →
      exec (.tickTx v) s = .next (wokenBy s s.cfg.lineOne { after with
        lineOe := false, txBusy := false, clkRun := false
        lineIn := s.cfg.lineOne, linePrev := (s.cfg.lineOne == s.pol) }))

/-- R84, R85, R137, R143: frames and a break at a module at rest, through the edge and the ten samples of each. That
a format appears on the line is the model's meaning of its row (log 13). -/
def Obligations.ModuleReceivesFormatsByteByByte : Prop :=
  ∀ s : State, AtRest s → s.rxCount ≤ s.cfg.rxbufLen →
    (∀ i bs, i.wf = true → lineBytes s.cfg.wordOrder i = some bs → ∃ t, exec i s = .next t ∧ ReceivedBy s bs t) ∧
    exec .break10 s = .next { s with
      rxCount := 0, frameComplete := false, rxAcc := 0, rxBitcnt := 8, clkRun := false
      clkCnt := s.cfg.bitTicks, tickPend := false, lineIn := !s.pol, linePrev := false }

/-- R34, R148: no reception takes place while `tx_busy`: a format on the line then leaves a module as it was. That the
row changes nothing else, the remembered line level among it, is the model's reading (log 14). -/
def Obligations.NothingIsReceivedWhileTransmitting : Prop :=
  ∀ s : State, SerReady s → s.asleep = false → s.txBusy = true →
    (∀ i bs, i.wf = true → lineBytes s.cfg.wordOrder i = some bs → exec i s = .next s) ∧
    exec .break10 s = .next s

/-- R170, R171 (R241): the same formats at a master whose `m_map` matches the wiring, and CAPTURE under any setting.
While it sends, nothing is captured. That a format appears on the line is the model's meaning of its row (log 13), and
the wiring is a field of the configuration (log 29). -/
def Obligations.MasterCapturesFormatsByteByByte : Prop :=
  ∀ s : State, s.cfg.role = .masterRole → 67 ≤ s.cfg.ringLen → s.ringWr < s.cfg.ringLen →
    (s.mDir = .rx →
      (MapMatches s →
        (∀ i bs, i.wf = true → lineBytes s.cfg.wordOrder i = some bs → ∃ t, exec i s = .next t ∧ CapturedBy s bs t) ∧
        ∃ t, exec .break10 s = .next t ∧ CapturedBy s [0] t) ∧
      (∀ b, ∃ t, exec (.capture b) s = .next t ∧ CapturedBy s [b] t)) ∧
    (s.mDir = .tx →
      (∀ i bs, i.wf = true → lineBytes s.cfg.wordOrder i = some bs → exec i s = .next s) ∧
      exec .break10 s = .next s ∧ ∀ b, exec (.capture b) s = .next s)

/-- R178, R300: under the wrong setting of `m_map` a master captures the complement of every byte of a format; of a break,
whose eight data bit times are at logical 0 (R170), the byte 0xFF. That reading of a break, and the wiring as a field of
the configuration, are the model's (log 29), and so is the row as the format on the line (log 13). -/
def Obligations.WrongMapComplementsEveryByte : Prop :=
  ∀ s : State, s.cfg.role = .masterRole → 67 ≤ s.cfg.ringLen → s.ringWr < s.cfg.ringLen → s.mDir = .rx →
    ¬ MapMatches s →
    (∀ i bs, i.wf = true → lineBytes s.cfg.wordOrder i = some bs →
      ∃ t, exec i s = .next t ∧ CapturedBy s (bs.map fun b => b ^^^ 0xFF) t) ∧
    ∃ t, exec .break10 s = .next t ∧ CapturedBy s [0xFF] t

/-- R70, R140, R152, R172, R173: the reads return what they read and change nothing. -/
def Obligations.ReadsHaveNoSideEffect : Prop :=
  ∀ s : State,
    (SerReady s →
      exec .rxStatus s = .next { s with result := .rxStatus s.rxCount s.frameComplete } ∧
      exec .txStatus s = .next { s with result := .txStatus s.txBusy } ∧
      (∀ i, i < s.cfg.rxbufLen → ∃ b, exec (.rxRead i) s = .next { s with result := .byte b } ∧
        (i < s.rxCount → b = s.readByte .rxbuf i)) ∧
      (∀ i, s.cfg.rxbufLen ≤ i → exec (.rxRead i) s = .refused .badOffset)) ∧
    (s.cfg.role = .masterRole →
      exec .mAvail s = .next { s with result := .avail s.mRxSince } ∧
      (∀ n, 1 ≤ n → n ≤ s.cfg.ringLen → ∃ bs, exec (.mReadlast n) s = .next { s with result := .bytes bs } ∧
        bs.length = n ∧
        ∀ i, i < n → bs.getD i 0 = s.readByte .ring ((s.ringWr + s.cfg.ringLen - n + i) % s.cfg.ringLen)) ∧
      (∀ n, n = 0 ∨ s.cfg.ringLen < n → exec (.mReadlast n) s = .refused .badCount))

/-- R171, R172: the last `n` captured bytes are what M.READLAST returns. -/
def Obligations.ReadlastReturnsTheNewestCaptures : Prop :=
  ∀ (s : State) (bs : List Byte), s.cfg.role = .masterRole → s.mDir = .rx → s.ringWr < s.cfg.ringLen →
    1 ≤ bs.length → bs.length ≤ s.cfg.ringLen →
    ∃ t, execAll (bs.map .capture) s = .next t ∧
      exec (.mReadlast bs.length) t = .next { t with result := .bytes bs } ∧
      exec .mAvail t = .next { t with result := .avail (min (s.mRxSince + bs.length) s.cfg.ringLen) }

/-- R141, R142, U4. Neither operation has a result: the field `result` then holds none (the model's, log 4). -/
def Obligations.RxSetlenAndRxAck : Prop :=
  ∀ s : State, SerReady s →
    (∀ n, 1 ≤ n → n ≤ s.cfg.rxbufLen → exec (.rxSetlen n) s = .next { s with rxLen := n, result := .none }) ∧
    (∀ n, n = 0 ∨ s.cfg.rxbufLen < n → exec (.rxSetlen n) s = .refused .badCount) ∧
    exec .rxAck s = .next { s with frameComplete := false, result := .none }

/-- R148. No result: the field `result` then holds none (the model's, log 4). -/
def Obligations.TxSendLoadsAndStartsTheClock : Prop :=
  ∀ (bs : List Byte) (s : State), SerReady s → s.rxFsm = .waitEdge → s.txBusy = false →
    1 ≤ bs.length → bs.length ≤ s.cfg.txbufLen →
    ∃ t, exec (.txSend bs) s = .next t ∧
      t = { s with
        txbuf := t.txbuf, txLen := bs.length, txTick := 0, txBusy := true, clkCnt := s.cfg.bitTicks, clkRun := true
        result := .none } ∧
      ∀ a, t.readByte .txbuf a = if a < bs.length then bs.getD a 0 else s.readByte .txbuf a

/-- R148, R149, R150, R153: a whole transmission: tick by tick the frames of the bytes, the turnaround at logical 1,
and the release at the last of `10 * n + TURNAROUND` ticks. The host that sends is awake: a sleeping one invokes nothing, and
would lose `pol` at the first change of the level (R281, log 28). -/
def Obligations.TransmissionCarriesEveryFrame : Prop :=
  ∀ (bs : List Byte) (s : State), SerReady s → s.asleep = false → s.rxFsm = .waitEdge → s.txBusy = false →
    1 ≤ bs.length → bs.length ≤ s.cfg.txbufLen → 1 ≤ s.cfg.turnaround →
    ∃ t0, exec (.txSend bs) s = .next t0 ∧
      ∀ vs : List Bool, 1 ≤ vs.length → vs.length ≤ 10 * bs.length + s.cfg.turnaround →
        ∃ t, execAll (vs.map .tickTx) t0 = .next t ∧ t.txTick = vs.length ∧
          (vs.length ≤ 10 * bs.length →
            t.lineOe = true ∧ t.txBusy = true ∧
            t.lineOut = s.elec ((bs.flatMap frameBits).getD (vs.length - 1) true)) ∧
          (10 * bs.length < vs.length → vs.length < 10 * bs.length + s.cfg.turnaround →
            t.lineOe = true ∧ t.txBusy = true ∧ t.lineOut = s.elec true) ∧
          (vs.length = 10 * bs.length + s.cfg.turnaround →
            t.lineOe = false ∧ t.txBusy = false ∧ t.clkRun = false)

/-- R265, R295: a module SER operation before POL.DETECT is refused; so is a format on the line (log 13), whose bits
have no logical value yet. A wake brings a module back to that state (R281, `SleepAndWake`). -/
def Obligations.SerRefusedBeforePolDetect : Prop :=
  ∀ s : State, s.cfg.role = .moduleRole → s.polDetected = false →
    (∀ i v n bs slot, i ∈ [Instr.edge, .tickRxStart v, .tickRxData v, .tickRxStop v, .tickTx v, .rxStatus, .rxRead n,
        .rxSetlen n, .rxAck, .txSend bs, .txStatus, .forward slot, .break10] →
      exec i s = .refused .beforePolDetect) ∧
    (∀ i bs, i.wf = true → lineBytes s.cfg.wordOrder i = some bs → exec i s = .refused .beforePolDetect)

/-- R265, R301, U4: the operations outside their preconditions; R134: a TICK of a case the state does not
present (log 18). M.SEND of more bytes than `m_txq` holds is `RING_LEN` and more (U4, R40). -/
def Obligations.OutsidePreconditionsIsRefused : Prop :=
  ∀ s : State,
    (SerReady s → (s.txBusy = true ∨ s.rxFsm ≠ .waitEdge) →
      (∀ bs, exec (.txSend bs) s = .refused .notAtRest) ∧ ∀ slot, exec (.forward slot) s = .refused .notAtRest) ∧
    (SerReady s → s.rxFsm = .waitEdge → s.txBusy = false →
      ∀ bs, bs.length = 0 ∨ s.cfg.txbufLen < bs.length → exec (.txSend bs) s = .refused .badCount) ∧
    (SerReady s → ∀ i v p, (i, p) ∈ [
        (Instr.tickRxStart v, s.txBusy = false ∧ s.rxFsm = .waitStart),
        (.tickRxData v, s.txBusy = false ∧ s.rxFsm = .receiving ∧ s.rxBitcnt < 8),
        (.tickRxStop v, s.txBusy = false ∧ s.rxFsm = .receiving ∧ s.rxBitcnt = 8),
        (.tickTx v, s.txBusy = true)] →
      (s.clkRun = false ∨ ¬ p) → exec i s = .refused .noSuchTick) ∧
    (s.cfg.role = .masterRole → s.mDir = .tx →
      (∀ brk bs, exec (.mSend brk bs) s = .refused .sending) ∧
      (∀ a op g, exec (.cmdSend a op g) s = .refused .sending) ∧
      ∀ m, exec (.mSetmap m) s = .refused .sending) ∧
    (s.cfg.role = .masterRole → s.mDir = .rx →
      exec (.mSend false []) s = .refused .badCount ∧
      ∀ brk bs, s.cfg.ringLen < bs.length → exec (.mSend brk bs) s = .refused .badCount)

/-! ### SER, master side -/

/-- R175. The record of the driven levels, `mWave`, starts anew with `mPhase` (the model's, log 17); no result (log 4). -/
def Obligations.MSendFlipsTheLineToTransmit : Prop :=
  ∀ (brk : Bool) (bs : List Byte) (s : State), s.cfg.role = .masterRole → s.mDir = .rx →
    (brk = true ∨ 1 ≤ bs.length) → bs.length ≤ s.cfg.ringLen →
    exec (.mSend brk bs) s =
      .next { s with mDir := .tx, mBrk := brk, mTxq := bs, mWave := [], mPhase := .start, result := .none }

/-- R177, with R176 (3): whatever the transmit agent still held has been sent by then: the break and gap, then every byte
(the model's reading, log 16; the record `mWave` and `mPhase` are the model's, log 17). -/
def Obligations.TxcReturnsToReceive : Prop :=
  ∀ s : State, s.cfg.role = .masterRole →
    (s.mDir = .rx → exec .txc s = .next { s with mRxSince := 0, mPhase := .start }) ∧
    (s.mDir = .tx →
      exec .txc s = .next { s with
        mDir := .rx, mRxSince := 0, mTxq := [], mBrk := false, mPhase := .start
        mWave := s.mWave ++ drivenBits s (breakIf s.cfg s.mBrk ++ s.mTxq.flatMap frameBits) })

/-- R178 (D31): the setting selects the electrical level of each logical value. No result: the field `result` then holds
none (the model's, log 4); which level DEFAULT makes logical 1 is the configuration's (log 17). -/
def Obligations.MSetmapSelectsTheWiring : Prop :=
  ∀ (m : MMap) (s : State), s.cfg.role = .masterRole → s.mDir = .rx →
    ∃ t, exec (.mSetmap m) s = .next t ∧ t = { s with mMap := m, result := .none } ∧
      (∀ b, t.masterElec b = masterLevel t b) ∧
      t.masterElec true = (if m = .default then s.cfg.mapDefaultOne else !s.cfg.mapDefaultOne) ∧
      t.masterElec false = !t.masterElec true

/-- R176: the transmit agent's waveform after M.SEND: the break and the gap if asked for, one FRAME10 a byte, TXC. The
record `mWave`, `mPhase` and the input that moves the agent are the model's (log 17). -/
def Obligations.TransmitAgentWaveform : Prop :=
  ∀ (brk : Bool) (bs : List Byte) (s : State), s.cfg.role = .masterRole → s.mDir = .rx →
    (brk = true ∨ 1 ≤ bs.length) → bs.length ≤ s.cfg.ringLen → s.edgePend = false → s.tickPend = false →
    ∃ t, exec (.mSend brk bs) s = .next t ∧
      let moves := (if brk then 1 else 0) + bs.length + 1
      Host.Core.run core moves { t with inputs := List.replicate moves .shift } =
        .next { t with
          mDir := .rx, mRxSince := 0, mTxq := [], mBrk := false, mPhase := .start, inputs := []
          mWave := drivenBits s (breakIf s.cfg brk ++ bs.flatMap frameBits) }

/-- R176: the agent may let the line rest at logical 1 for any number of bit times more, whole or fractional, in the gap
after a break and between two frames; not before it has sent anything, not after the last frame, and not while the master
receives. What it has sent last is the model's field `mPhase`, and the rest an input of the model, which lasts some time
(log 17). -/
def Obligations.AgentRestsInGapAndBetweenFrames : Prop :=
  ∀ (s : State) (d : Rat) (rest : List Input), s.edgePend = false → s.tickPend = false → s.inputs = .rest d :: rest →
    (0 < d → s.mDir = .tx → (s.mPhase = .gap ∨ (s.mPhase = .frame ∧ s.mTxq ≠ [])) →
      step s = .next { s with inputs := rest, mWave := s.mWave ++ [⟨masterLevel s true, d⟩] }) ∧
    ((d ≤ 0 ∨ s.mDir = .rx ∨ s.mPhase = .start ∨ (s.mPhase = .frame ∧ s.mTxq = [])) → step s = .refused .noRest)

/-! ### The machine -/

/-- R13, R72, with the agenda of log 1: when nothing is raised and the next input decodes to `i`, the step is `exec i` with
that input taken. A sleeping host invokes nothing (R281, log 28). -/
def Obligations.StepRunsTheDecodedInstruction : Prop :=
  ∀ (s : State) (r : Request) (rest : List Input) (i : Instr), s.edgePend = false → s.tickPend = false →
    s.inputs = .request r :: rest → decode s.cfg r = .ok i →
    i.wf = true ∧ i.fits s.cfg = true ∧
    (s.asleep = false ∨ fromLine i = true → step s = exec i { s with inputs := rest }) ∧
    (s.asleep = true → fromLine i = false → step s = .refused .hostAsleep)

/-- R271, R272: a raised EDGE, else a raised TICK, runs before the next input (log 20), as the instruction of its case. -/
def Obligations.RaisedInterruptsRunFirst : Prop :=
  ∀ s : State, SerReady s →
    (s.edgePend = true → step s = exec .edge s) ∧
    (s.edgePend = false → s.tickPend = true → s.clkRun = true →
      (s.txBusy = true → step s = exec (.tickTx s.lineIn) s) ∧
      (s.txBusy = false → s.rxFsm = .waitStart → step s = exec (.tickRxStart s.lineIn) s) ∧
      (s.txBusy = false → s.rxFsm = .receiving → s.rxBitcnt < 8 → step s = exec (.tickRxData s.lineIn) s) ∧
      (s.txBusy = false → s.rxFsm = .receiving → s.rxBitcnt = 8 → step s = exec (.tickRxStop s.lineIn) s))

/-- R31, R271, one timer count being one input (log 21): a running clock raises TICK when its count is used up and not
before. With what EDGE and TICK load (R133, R134) this gives R138's sampling instants. -/
def Obligations.ClockRaisesTickWhenItsCountIsUsedUp : Prop :=
  ∀ (s : State) (k : Nat) (rest : List Input), s.clkRun = true → s.edgePend = false → s.tickPend = false →
    s.inputs = List.replicate k .count ++ rest →
    (k < s.clkCnt → Host.Core.run core k s = .next { s with clkCnt := s.clkCnt - k, inputs := rest }) ∧
    (1 ≤ k → k = s.clkCnt →
      Host.Core.run core k s = .next { s with clkCnt := 0, tickPend := true, inputs := rest })

/-- R132: a level of the line that this block does not contradict, its host awake: the detector raises an EDGE exactly on an enabled
change from 1 to 0, and remembers the level. A level as an input, and `lineIn`, are the model's (log 9). -/
def Obligations.EdgeDetectorRaisesOnFallingLevel : Prop :=
  ∀ (s : State) (v : Bool) (rest : List Input), SerReady s → s.asleep = false → s.edgePend = false →
    s.tickPend = false → s.inputs = .line v :: rest → (s.lineOe = true → v = s.lineOut) →
    step s = .next { s with
      inputs := rest, lineIn := v, linePrev := (v == s.pol)
      edgePend := decide (s.linePrev = true ∧ (v == s.pol) = false ∧ s.rxFsm = .waitEdge ∧ s.txBusy = false) }

/-- R281, R130 (D29), R132: a module may go to sleep in any block state, which changes nothing else. The line at its level
leaves it asleep. A change of the line's level in either direction and in any block state wakes the host, and `pol` then
has no value (`polDetected` false) until POL.DETECT; all other state is kept, and a change from 1 to 0 also raises the
EDGE that starts a reception, in WAIT_EDGE without a transmission. The inputs and the fields `asleep` and `polDetected`
are the model's (logs 1, 7, 28). -/
def Obligations.SleepAndWake : Prop :=
  ∀ (s : State) (rest : List Input), SerReady s → s.edgePend = false → s.tickPend = false →
    (s.inputs = .sleep :: rest → step s = .next { s with inputs := rest, asleep := true }) ∧
    (s.asleep = true → s.linePrev = (s.lineIn == s.pol) → ∀ v, s.inputs = .line v :: rest →
      (s.lineOe = true → v = s.lineOut) →
      (v = s.lineIn → step s = .next { s with inputs := rest }) ∧
      (v ≠ s.lineIn → step s = .next { s with
        inputs := rest, asleep := false, polDetected := false, lineIn := v, linePrev := (v == s.pol)
        edgePend := decide (s.linePrev = true ∧ s.rxFsm = .waitEdge ∧ s.txBusy = false) }))

/-- R87, R88, R90, R81, R84, R85, R93 to R95: no bit of an encoding is dropped: under every configuration that meets R8,
every well-formed instruction whose operands its fields hold is what its request decodes to. The form of a request is the
model's (log 2). -/
def Obligations.DecodeOfEncodeIsIdentity : Prop :=
  ∀ (c : Config) (i : Instr), c.wf = true → i.wf = true → i.fits c = true → decode c (encode c i) = .ok i

/-- A few words of V60, V20 and R85 written out (the tests decode one of every row), and a payload of the packing
`ADDR_W` = 6, `ARG_W` = 2. The form of a request is the model's (log 2). -/
def Obligations.WrittenOutWordsDecode : Prop :=
  ∀ c : Config, (SpecPacking c →
    decode c ⟨.cmdw, [0b00000101000]⟩ = .ok (.getdata ⟨5, 0⟩) ∧
    decode c ⟨.cmdw, [0b10101010001, 0b00000000010]⟩ = .ok (.setaddr 0xAA 2) ∧
    decode c ⟨.cmdw, [0b10101010101]⟩ = .ok (.addrmode ⟨0xAA, 0⟩) ∧
    decode c ⟨.line10, [0b0010100001]⟩ = .ok (.frame10 0x0A) ∧
    decode c ⟨.line10, [0b0000000000]⟩ = .ok .break10 ∧
    decode c ⟨.cmdw, [0b10101010001]⟩ = .error .missingSecondWord) ∧
  (c.addrW = 6 → c.argW = 2 → c.wide = [1, 2] → decode c ⟨.cmdw, [0b00010100010]⟩ = .ok (.getdata ⟨5, 2⟩))

/-- R291, R292, R293 (R47, R49 for `line_prev`): the values the spec gives for reset, for every configuration and whatever
the spec leaves unspecified; and the model's reset is one of these. That a byte of a buffer nothing has written reads as
`Config.unspecifiedByte` is the model's form of R29 and R291's 'unspecified' (log 10). -/
def Obligations.ResetValuesAreTheSpecs : Prop :=
  (∀ (c : Config) (u : Unspecified),
    let s := State.resetWith c u
    s.rxFsm = .waitEdge ∧ s.rxBitcnt = 0 ∧ s.rxCount = 0 ∧ s.rxLen = 2 ∧ s.frameComplete = false ∧
    s.clkRun = false ∧ s.txLen = 0 ∧ s.txTick = 0 ∧ s.txBusy = false ∧ s.lineOe = false ∧ s.edgePend = false ∧
    s.tickPend = false ∧ s.mDir = .rx ∧ s.ringWr = 0 ∧ s.mRxSince = 0 ∧ s.mMap = .default ∧ s.mTxq = [] ∧
    s.mBrk = false ∧ s.myAddr = 0 ∧ s.linePrev = true ∧
    s.pol = u.pol ∧ s.rxAcc = u.rxAcc ∧ s.clkCnt = u.clkCnt ∧ s.lineOut = u.lineOut ∧ s.crc = u.crc ∧
    ∀ sp a, s.readByte sp a = Config.unspecifiedByte sp a none) ∧
  ∃ c u, State.reset = State.resetWith c u

/-- The invariant `State.Inv` (the ranges of R49 and the relations the rules use) at reset, for every configuration that
meets R8 and every value of what the spec leaves unspecified within its range. -/
def Obligations.InvariantHoldsAtReset : Prop :=
  (∀ (c : Config) (u : Unspecified), c.wf = true → u.clkCnt ≤ c.bitTicks → (State.resetWith c u).Inv) ∧
  State.reset.Inv

/-- Every step keeps the invariant, from every state that has it (R49, R60, R134, R153, R271). -/
def Obligations.EveryStepKeepsTheInvariant : Prop :=
  ∀ s t : State, s.Inv → step s = .next t → t.Inv

/-- R20, R100: an operation of the other role is refused (the model's reading, log 19). -/
def Obligations.OtherRolesOperationsAreRefused : Prop :=
  ∀ s : State,
    (s.cfg.role = .masterRole → ∀ a op g v n bs sw hw sn v0 v1 v2 v3 v4,
      ∀ i ∈ [Instr.getdata ⟨a, g⟩, .setaddr a g, .shunton a g, .version ⟨a, g⟩, .reserved4 ⟨a, g⟩,
        .addrmode ⟨a, g⟩, .breakCmd ⟨a, g⟩, .boot ⟨a, g⟩,
        .polDetect, .edge, .tickRxStart v, .tickRxData v, .tickRxStop v, .tickTx v, .rxStatus, .rxRead n, .rxSetlen n,
        .rxAck, .txSend bs, .txStatus, .cmdRecv, .filter a op g, .forward g, .measBuild v0 v1 v2 v3 v4,
        .verBuild sw hw sn, .pageCheck bs],
      exec i s = .refused .notInRole) ∧
    (s.cfg.role = .moduleRole → ∀ a op g b n brk bs m ws,
      ∀ i ∈ [Instr.capture b, .mAvail, .mReadlast n, .mSend brk bs, .txc, .mSetmap m, .cmdSend a op g, .measCheck bs,
        .verCheck bs, .pageBuild b ws],
      exec i s = .refused .notInRole)
end

