-- ==== Sys2Proof/Laws/PerInstr.lean ====
section
/-! SUPPORT. Per-instruction facts about the syntax. -/

namespace Sys2Proof
namespace Laws

/-- The format or the name under which an instruction is requested (R80, R100): the eight commands as CMDW, the two
ten-bit slots as one, every other row under its own name. -/
def requestHead : Instr → Head
  | .getdata _ => .cmdw
  | .setaddr _ _ => .cmdw
  | .shunton _ _ => .cmdw
  | .version _ => .cmdw
  | .reserved4 _ => .cmdw
  | .addrmode _ => .cmdw
  | .breakCmd _ => .cmdw
  | .boot _ => .cmdw
  | .argw _ => .argw
  | .cw16 _ => .cw16
  | .frame10 _ => .line10
  | .break10 => .line10
  | .hamEnc _ => .hamEnc
  | .hamDec _ => .hamDec
  | .polDetect => .polDetect
  | .edge => .edge
  | .tickRxStart _ => .tickRxStart
  | .tickRxData _ => .tickRxData
  | .tickRxStop _ => .tickRxStop
  | .tickTx _ => .tickTx
  | .rxStatus => .rxStatus
  | .rxRead _ => .rxRead
  | .rxSetlen _ => .rxSetlen
  | .rxAck => .rxAck
  | .txSend _ => .txSend
  | .txStatus => .txStatus
  | .capture _ => .capture
  | .mAvail => .mAvail
  | .mReadlast _ => .mReadlast
  | .mSend _ _ => .mSend
  | .txc => .txc
  | .mSetmap _ => .mSetmap
  | .crcInit => .crcInit
  | .crcUpdate _ => .crcUpdate
  | .crcBlock _ => .crcBlock
  | .cmdPack _ _ _ => .cmdPack
  | .cmdUnpack _ => .cmdUnpack
  | .cmdEncode _ _ _ => .cmdEncode
  | .cmdDecode _ => .cmdDecode
  | .cmdSend _ _ _ => .cmdSend
  | .cmdRecv => .cmdRecv
  | .filter _ _ _ => .filter
  | .forward _ => .forward
  | .measBuild _ _ _ _ _ => .measBuild
  | .measCheck _ => .measCheck
  | .verBuild _ _ _ => .verBuild
  | .verCheck _ => .verCheck
  | .pageBuild _ _ => .pageBuild
  | .pageCheck _ => .pageCheck
  | .meas _ => .meas
  | .ver _ => .ver
  | .page _ => .page

/-- The encoder files an instruction under its own head, whatever the configuration. -/
def EncodeHead.Statement (i : Instr) : Prop := ∀ c : Config, (encode c i).head = requestHead i

theorem EncodeHead.getdata (a : CommandFields) : EncodeHead.Statement (.getdata a) := fun _ => rfl
theorem EncodeHead.setaddr (a : Addr) (slot : Data11) : EncodeHead.Statement (.setaddr a slot) := fun _ => rfl
theorem EncodeHead.shunton (a : Addr) (mask : Data11) : EncodeHead.Statement (.shunton a mask) := fun _ => rfl
theorem EncodeHead.version (a : CommandFields) : EncodeHead.Statement (.version a) := fun _ => rfl
theorem EncodeHead.reserved4 (a : CommandFields) : EncodeHead.Statement (.reserved4 a) := fun _ => rfl
theorem EncodeHead.addrmode (a : CommandFields) : EncodeHead.Statement (.addrmode a) := fun _ => rfl
theorem EncodeHead.breakCmd (a : CommandFields) : EncodeHead.Statement (.breakCmd a) := fun _ => rfl
theorem EncodeHead.boot (a : CommandFields) : EncodeHead.Statement (.boot a) := fun _ => rfl
theorem EncodeHead.argw (g : Data11) : EncodeHead.Statement (.argw g) := fun _ => rfl
theorem EncodeHead.cw16 (c : Word16) : EncodeHead.Statement (.cw16 c) := fun _ => rfl
theorem EncodeHead.frame10 (b : Byte) : EncodeHead.Statement (.frame10 b) := fun _ => rfl
theorem EncodeHead.break10 : EncodeHead.Statement (.break10) := fun _ => rfl
theorem EncodeHead.hamEnc (d : Data11) : EncodeHead.Statement (.hamEnc d) := fun _ => rfl
theorem EncodeHead.hamDec (c : Word16) : EncodeHead.Statement (.hamDec c) := fun _ => rfl
theorem EncodeHead.polDetect : EncodeHead.Statement (.polDetect) := fun _ => rfl
theorem EncodeHead.edge : EncodeHead.Statement (.edge) := fun _ => rfl
theorem EncodeHead.tickRxStart (v : Bool) : EncodeHead.Statement (.tickRxStart v) := fun _ => rfl
theorem EncodeHead.tickRxData (v : Bool) : EncodeHead.Statement (.tickRxData v) := fun _ => rfl
theorem EncodeHead.tickRxStop (v : Bool) : EncodeHead.Statement (.tickRxStop v) := fun _ => rfl
theorem EncodeHead.tickTx (v : Bool) : EncodeHead.Statement (.tickTx v) := fun _ => rfl
theorem EncodeHead.rxStatus : EncodeHead.Statement (.rxStatus) := fun _ => rfl
theorem EncodeHead.rxRead (off : Nat) : EncodeHead.Statement (.rxRead off) := fun _ => rfl
theorem EncodeHead.rxSetlen (n : Nat) : EncodeHead.Statement (.rxSetlen n) := fun _ => rfl
theorem EncodeHead.rxAck : EncodeHead.Statement (.rxAck) := fun _ => rfl
theorem EncodeHead.txSend (bs : List Byte) : EncodeHead.Statement (.txSend bs) := fun _ => rfl
theorem EncodeHead.txStatus : EncodeHead.Statement (.txStatus) := fun _ => rfl
theorem EncodeHead.capture (b : Byte) : EncodeHead.Statement (.capture b) := fun _ => rfl
theorem EncodeHead.mAvail : EncodeHead.Statement (.mAvail) := fun _ => rfl
theorem EncodeHead.mReadlast (n : Nat) : EncodeHead.Statement (.mReadlast n) := fun _ => rfl
theorem EncodeHead.mSend (brk : Bool) (bs : List Byte) : EncodeHead.Statement (.mSend brk bs) := fun _ => rfl
theorem EncodeHead.txc : EncodeHead.Statement (.txc) := fun _ => rfl
theorem EncodeHead.mSetmap (m : MMap) : EncodeHead.Statement (.mSetmap m) := fun _ => by cases m <;> rfl
theorem EncodeHead.crcInit : EncodeHead.Statement (.crcInit) := fun _ => rfl
theorem EncodeHead.crcUpdate (b : Byte) : EncodeHead.Statement (.crcUpdate b) := fun _ => rfl
theorem EncodeHead.crcBlock (bs : List Byte) : EncodeHead.Statement (.crcBlock bs) := fun _ => rfl
theorem EncodeHead.cmdPack (a : Addr) (op : Opcode) (g : Data11) : EncodeHead.Statement (.cmdPack a op g) := fun _ => rfl
theorem EncodeHead.cmdUnpack (p : Data11) : EncodeHead.Statement (.cmdUnpack p) := fun _ => rfl
theorem EncodeHead.cmdEncode (a : Addr) (op : Opcode) (g : Data11) : EncodeHead.Statement (.cmdEncode a op g) := fun _ => rfl
theorem EncodeHead.cmdDecode (bs : List Byte) : EncodeHead.Statement (.cmdDecode bs) := fun _ => rfl
theorem EncodeHead.cmdSend (a : Addr) (op : Opcode) (g : Data11) : EncodeHead.Statement (.cmdSend a op g) := fun _ => rfl
theorem EncodeHead.cmdRecv : EncodeHead.Statement (.cmdRecv) := fun _ => rfl
theorem EncodeHead.filter (a : Addr) (op : Opcode) (g : Data11) : EncodeHead.Statement (.filter a op g) := fun _ => rfl
theorem EncodeHead.forward (slot : Data11) : EncodeHead.Statement (.forward slot) := fun _ => rfl
theorem EncodeHead.measBuild (v0 : Word16) (v1 : Word16) (v2 : Word16) (v3 : Word16) (v4 : Word16) : EncodeHead.Statement (.measBuild v0 v1 v2 v3 v4) := fun _ => rfl
theorem EncodeHead.measCheck (bs : List Byte) : EncodeHead.Statement (.measCheck bs) := fun _ => rfl
theorem EncodeHead.verBuild (sw : List Byte) (hw : List Byte) (sn : BitVec 32) : EncodeHead.Statement (.verBuild sw hw sn) := fun _ => rfl
theorem EncodeHead.verCheck (bs : List Byte) : EncodeHead.Statement (.verCheck bs) := fun _ => rfl
theorem EncodeHead.pageBuild (n : Byte) (ws : List Word16) : EncodeHead.Statement (.pageBuild n ws) := fun _ => rfl
theorem EncodeHead.pageCheck (bs : List Byte) : EncodeHead.Statement (.pageCheck bs) := fun _ => rfl
theorem EncodeHead.meas (bs : List Byte) : EncodeHead.Statement (.meas bs) := fun _ => rfl
theorem EncodeHead.ver (bs : List Byte) : EncodeHead.Statement (.ver bs) := fun _ => rfl
theorem EncodeHead.page (bs : List Byte) : EncodeHead.Statement (.page bs) := fun _ => rfl

end Laws
end Sys2Proof
end

