-- ==== Sys2Proof/Machine/Pseudo.lean ====
section
/-! DEFINITION. The pseudo-operations of R101, the module count of R220 and the absence of a frame (R262), over the
operations of R100. They are the host's sequences and no instructions of their own. -/

namespace Sys2Proof
namespace Machine

/-- `sendCommand(address, opcode, argument)`. -/
def sendCommand (a : Addr) (op : Opcode) (g : Data11) (s : State) : Answer := exec (.cmdSend a op g) s

/-- `requestData(slaveAddress)`. -/
def requestData (a : Addr) (s : State) : Answer := exec (.cmdSend a 0 0) s

/-- `requestVersion(slaveAddress)`. -/
def requestVersion (a : Addr) (s : State) : Answer := exec (.cmdSend a 3 0) s

/-- `setShunt(slaveAddress, enabledChannelMask)`. -/
def setShunt (a : Addr) (mask : Data11) (s : State) : Answer := exec (.cmdSend a 2 mask) s

/-- `enterAddressMode()`. -/
def enterAddressMode (s : State) : Answer := exec (.cmdSend s.cfg.bcast 5 0) s

/-- `assignNextAddress()`. -/
def assignNextAddress (s : State) : Answer := exec (.cmdSend s.cfg.bcast 1 1) s

/-- `bootToUpdater()`. -/
def bootToUpdater (s : State) : Answer := exec (.cmdSend s.cfg.bcast 7 0) s

/-- R101, R173: if `n` bytes have arrived since TXC, check the last `n`; else failure, no frame (R262). -/
def acquireBlock (n : Nat) (check : List Byte → Instr) (s : State) : Answer :=
  needMaster s (if n ≤ s.mRxSince then exec (check (s.newest n)) s else ret .noFrame s)

/-- `acquireData()`. -/
def acquireData (s : State) : Answer := acquireBlock Config.measLen .measCheck s

/-- `acquireVersion()`. -/
def acquireVersion (s : State) : Answer := acquireBlock Config.verLen .verCheck s

/-- R220: the module count a master infers from the last forwarded SETADDR: its slot less one. For slot 0 the rule's
g - 1 has no stated value: a free value (DESIGN CHOICE, log 23). Where the newest four bytes do not decode, or to a
command that is no SETADDR, there is no count; the address of the SETADDR is not looked at. R220 is silent on both: DESIGN
CHOICE (log 23). -/
def moduleCount (s : State) : Option Nat :=
  match decodeCommand s.cfg (s.newest 4) with
  | some (.command _ op g) => if op = 1 then some (if g = 0 then Config.countBelowSlotZero else g.toNat - 1) else none
  | _ => none

end Machine
end Sys2Proof
end

