-- ==== Sys2Proof/Tests/Slice0.lean ====
section
/-! SUPPORT. The model's own tests. Expected values are the vectors V1 to V73 and the programs P1 to P5 of
95_test_vectors.md and the worked examples of the rules; each test names its source. -/

-- One theorem after another: each `decide +kernel` waits for the declarations before it, and a waiting theorem would
-- hold a thread of its own.
set_option Elab.async false

namespace Sys2Proof
namespace Tests
open Sys2Proof.Machine

/-! ### Helpers -/

/-- The next state of an answer. -/
def nextOf : Answer → Option State
  | .next t => some t
  | _ => none

/-- One field of the next state. -/
def of {α : Type} (f : State → α) (a : Answer) : Option α := (nextOf a).map f

/-- The refusal of an answer. -/
def refusalOf : Answer → Option Refusal
  | .refused r => some r
  | _ => none

/-- Instructions one after another, stopping at the first that gives no next state. -/
def run : List Instr → State → Answer
  | [], s => .next s
  | i :: is, s =>
    match exec i s with
    | .next t => run is t
    | a => a

/-- A module that has found polarity 1 (95_test_vectors.md Part 3). -/
def modu : State := { State.reset with polDetected := true, pol := true, lineIn := true }

/-- The same with polarity 0, on a line of that polarity. -/
def modu0 : State :=
  { State.reset with cfg := { Config.default with lineOne := false }, polDetected := true, pol := false, lineIn := false }

/-- A master after reset. -/
def mast : State := { State.reset with cfg := { Config.default with role := .masterRole } }

/-- A master whose ring has eight bytes (V51, R172; smaller than R8 allows, as in the spec's own example). -/
def mast8 : State := { State.reset with cfg := { Config.default with role := .masterRole, ringLen := 8 } }

/-! ### Decoding: words written out from 30_encoding.md -/

/-- R87, R90: address 00000101, opcode 000 (V60 payload 0x028) -/
theorem test_decode_getdata : (decode Config.default ⟨.cmdw, [0b00000101000]⟩).toOption = some (.getdata ⟨5, 0⟩) := by decide +kernel

/-- R87, R88: payloads 0x551, 0x001 (V60) -/
theorem test_decode_setaddr : (decode Config.default ⟨.cmdw, [0b10101010001, 0b00000000001]⟩).toOption = some (.setaddr 0xAA 1) := by decide +kernel

/-- payloads 0x02A, 0x005 (R213) -/
theorem test_decode_shunton : (decode Config.default ⟨.cmdw, [0b00000101010, 0b00000000101]⟩).toOption = some (.shunton 5 5) := by decide +kernel

/-- payload 0x02B (R214) -/
theorem test_decode_version : (decode Config.default ⟨.cmdw, [0b00000101011]⟩).toOption = some (.version ⟨5, 0⟩) := by decide +kernel

/-- payload 0x554 (V60) -/
theorem test_decode_reserved4 : (decode Config.default ⟨.cmdw, [0b10101010100]⟩).toOption = some (.reserved4 ⟨0xAA, 0⟩) := by decide +kernel

/-- payload 0x555 (R215) -/
theorem test_decode_addrmode : (decode Config.default ⟨.cmdw, [0b10101010101]⟩).toOption = some (.addrmode ⟨0xAA, 0⟩) := by decide +kernel

/-- payload 0x556 (R216) -/
theorem test_decode_breakCmd : (decode Config.default ⟨.cmdw, [0b10101010110]⟩).toOption = some (.breakCmd ⟨0xAA, 0⟩) := by decide +kernel

/-- payload 0x557 (R217) -/
theorem test_decode_boot : (decode Config.default ⟨.cmdw, [0b10101010111]⟩).toOption = some (.boot ⟨0xAA, 0⟩) := by decide +kernel

/-- R88 -/
theorem test_decode_argw : (decode Config.default ⟨.argw, [0b00001000000]⟩).toOption = some (.argw 64) := by decide +kernel

/-- R81 -/
theorem test_decode_cw16 : (decode Config.default ⟨.cw16, [0b0000101000001010]⟩).toOption = some (.cw16 0x0A0A) := by decide +kernel

/-- R84: the frame of 0x0A is 0010100001 in time order (V20) -/
theorem test_decode_frame10 : (decode Config.default ⟨.line10, [0b0010100001]⟩).toOption = some (.frame10 0x0A) := by decide +kernel

/-- R85 -/
theorem test_decode_break10 : (decode Config.default ⟨.line10, [0b0000000000]⟩).toOption = some .break10 := by decide +kernel

/-- the second frame of V26 -/
theorem test_decode_frame10_of_0xE4 : (decode Config.default ⟨.line10, [0b0001001111]⟩).toOption = some (.frame10 0xE4) := by decide +kernel

/-- R93: the block of V70 -/
theorem test_decode_meas_row : decodeTableWord 104 0x85BA00FA0CE70CE60CE50CE405 = some (.meas [0x05, 0xE4, 0x0C, 0xE5, 0x0C, 0xE6, 0x0C, 0xE7, 0x0C, 0xFA, 0x00, 0xBA, 0x85]) := by decide +kernel

/-- R94: the block of V72 -/
theorem test_decode_ver_row : decodeTableWord 96 0x6AEF12345678001004030201 = some (.ver [1, 2, 3, 4, 0x10, 0, 0x78, 0x56, 0x34, 0x12, 0xEF, 0x6A]) := by decide +kernel

/-- R95: 67 bytes -/
theorem test_decode_page_row : (decodeTableWord 536 3).map Instr.wf = some true := by decide +kernel

/-- R100, the operations of HAM and the module events -/
theorem test_decode_commands : [decode Config.default ⟨.hamEnc, [0x028]⟩, decode Config.default ⟨.hamDec, [0x0A0A]⟩, decode Config.default ⟨.polDetect, []⟩, decode Config.default ⟨.edge, []⟩, decode Config.default ⟨.tickRxStart, [1]⟩, decode Config.default ⟨.tickRxData, [0]⟩, decode Config.default ⟨.tickRxStop, [1]⟩, decode Config.default ⟨.tickTx, [0]⟩].map Except.toOption = [some (.hamEnc 0x028), some (.hamDec 0x0A0A), some .polDetect, some .edge, some (.tickRxStart true), some (.tickRxData false), some (.tickRxStop true), some (.tickTx false)] := by decide +kernel

/-- R100 -/
theorem test_decode_module_ops : [decode Config.default ⟨.rxStatus, []⟩, decode Config.default ⟨.rxRead, [3]⟩, decode Config.default ⟨.rxSetlen, [67]⟩, decode Config.default ⟨.rxAck, []⟩, decode Config.default ⟨.txSend, [5, 0xE4]⟩, decode Config.default ⟨.txStatus, []⟩].map Except.toOption = [some .rxStatus, some (.rxRead 3), some (.rxSetlen 67), some .rxAck, some (.txSend [5, 0xE4]), some .txStatus] := by decide +kernel

/-- R100 -/
theorem test_decode_master_ops : [decode Config.default ⟨.capture, [0x5A]⟩, decode Config.default ⟨.mAvail, []⟩, decode Config.default ⟨.mReadlast, [13]⟩, decode Config.default ⟨.mSend, [1, 10, 10]⟩, decode Config.default ⟨.txc, []⟩, decode Config.default ⟨.mSetmap, [1]⟩, decode Config.default ⟨.mSetmap, [0]⟩].map Except.toOption = [some (.capture 0x5A), some .mAvail, some (.mReadlast 13), some (.mSend true [10, 10]), some .txc, some (.mSetmap .remapped), some (.mSetmap .default)] := by decide +kernel

/-- R100 -/
theorem test_decode_frm_ops : [decode Config.default ⟨.crcInit, []⟩, decode Config.default ⟨.crcUpdate, [1]⟩, decode Config.default ⟨.crcBlock, [1, 2]⟩, decode Config.default ⟨.cmdPack, [5, 0, 0]⟩, decode Config.default ⟨.cmdUnpack, [0x551]⟩, decode Config.default ⟨.cmdEncode, [0xAA, 1, 2]⟩, decode Config.default ⟨.cmdDecode, [10, 10]⟩, decode Config.default ⟨.cmdSend, [5, 3, 0]⟩, decode Config.default ⟨.cmdRecv, []⟩, decode Config.default ⟨.filter, [5, 0, 0]⟩, decode Config.default ⟨.forward, [2]⟩].map Except.toOption = [some .crcInit, some (.crcUpdate 1), some (.crcBlock [1, 2]), some (.cmdPack 5 0 0), some (.cmdUnpack 0x551), some (.cmdEncode 0xAA 1 2), some (.cmdDecode [10, 10]), some (.cmdSend 5 3 0), some .cmdRecv, some (.filter 5 0 0), some (.forward 2)] := by decide +kernel

/-- R100 -/
theorem test_decode_block_ops : [decode Config.default ⟨.measBuild, [1, 2, 3, 4, 5]⟩, decode Config.default ⟨.verBuild, [1, 2, 3, 4, 0x10, 0, 0x12345678]⟩, decode Config.default ⟨.pageBuild, 0 :: List.range 32⟩, decode Config.default ⟨.measCheck, List.range 13⟩, decode Config.default ⟨.verCheck, List.range 12⟩, decode Config.default ⟨.pageCheck, List.range 67⟩].map Except.toOption = [some (.measBuild 1 2 3 4 5), some (.verBuild [1, 2, 3, 4] [0x10, 0] 0x12345678), some (.pageBuild 0 ((List.range 32).map (BitVec.ofNat 16))), some (.measCheck ((List.range 13).map (BitVec.ofNat 8))), some (.verCheck ((List.range 12).map (BitVec.ofNat 8))), some (.pageCheck ((List.range 67).map (BitVec.ofNat 8)))] := by decide +kernel

/-! ### What the decoder and the shape check refuse -/

/-- R87 bits 15..11; R90 words; R84, R85; R245 length; a byte is 8 bits -/
theorem test_decode_refuses : [decode Config.default ⟨.cmdw, [2048]⟩, decode Config.default ⟨.cmdw, [0x551]⟩, decode Config.default ⟨.cmdw, [0x028, 0]⟩, decode Config.default ⟨.line10, [0b0010100000]⟩, decode Config.default ⟨.line10, [0b1000000001]⟩, decode Config.default ⟨.measCheck, [1]⟩, decode Config.default ⟨.txSend, [256]⟩].map (fun d => match d with | .error e => some e | .ok _ => none) = [some .operandRange, some .missingSecondWord, some .argCount, some .unknownSlot, some .unknownSlot, some .illFormed, some .operandRange] := by decide +kernel

theorem test_wf_refuses_txSend : Instr.wf (.txSend []) = false := by decide

theorem test_wf_refuses_mSend : Instr.wf (.mSend false []) = false := by decide

theorem test_wf_refuses_rxSetlen : Instr.wf (.rxSetlen 0) = false := by decide

theorem test_wf_refuses_mReadlast : Instr.wf (.mReadlast 0) = false := by decide

theorem test_wf_refuses_cmdDecode : Instr.wf (.cmdDecode [1, 2, 3]) = false := by decide

theorem test_wf_refuses_measCheck : Instr.wf (.measCheck [1]) = false := by decide

theorem test_wf_refuses_verBuild : Instr.wf (.verBuild [1] [2, 3] 0) = false := by decide

theorem test_wf_refuses_verCheck : Instr.wf (.verCheck []) = false := by decide

theorem test_wf_refuses_pageBuild : Instr.wf (.pageBuild 0 []) = false := by decide

theorem test_wf_refuses_pageCheck : Instr.wf (.pageCheck [0]) = false := by decide

theorem test_wf_refuses_meas : Instr.wf (.meas [0]) = false := by decide

theorem test_wf_refuses_ver : Instr.wf (.ver [0]) = false := by decide

theorem test_wf_refuses_page : Instr.wf (.page [0]) = false := by decide

/-- R87: an argument that `ARG_W` = 0 cannot carry, and an address of more than `ADDR_W` = 6 bits -/
theorem test_fits_refuses : [Instr.fits Config.default (.getdata ⟨5, 1⟩), Instr.fits { Config.default with addrW := 6, argW := 2 } (.getdata ⟨64, 0⟩), Instr.fits { Config.default with addrW := 6, argW := 2 } (.cmdSend 64 0 0)] = [false, false, false] := by decide

/-! ### HAM -/

/-- V2 -/
theorem test_hamEnc_vectors : ([(0x000, 0x0000), (0x028, 0x0A0A), (0x400, 0x8007), (0x001, 0xC08B), (0x02A, 0x2A80), (0x550, 0x852F), (0x002, 0x208A), (0x02B, 0xEA0B), (0x551, 0x45A4), (0x03F, 0xFE01), (0x123, 0xE2A9), (0x1F9, 0xCFE2), (0x2AA, 0xAAD2), (0x3FF, 0x7FF8), (0x7FE, 0x3F74), (0x7FF, 0xFFFF)] : List (Data11 × Word16)).all (fun p => of (·.result) (exec (.hamEnc p.1) modu) == some (.word p.2)) = true := by decide +kernel

/-- V5, V13 -/
theorem test_hamDec_vectors : ([(0x0A0A, .data 0x028), (0x0A0E, .data 0x028), (0x0A0F, .exception (.decodeError 2 false)), (0x8A0A, .exception (.decodeError 0 true)), (0x0001, .data 0), (0x8000, .exception (.decodeError 0 true)), (0x0003, .exception (.decodeError 3 false)), (0x8001, .exception (.decodeError 1 false)), (0x0007, .exception (.decodeError 0 true)), (0x0A01, .data 0x0A8), (0x0A23, .data 0x528), (0xFFFF, .data 0x7FF)] : List (Word16 × Result)).all (fun p => of (·.result) (exec (.hamDec p.1) mast) == some p.2) = true := by decide +kernel

/-! ### SER, module side -/

/-- R130 -/
theorem test_polDetect : of (fun t => (t.pol, t.polDetected, t.linePrev)) (exec .polDetect { State.reset with lineIn := true }) = some (true, true, true) := by decide +kernel

/-- V20, EDGE -/
theorem test_edge : of (fun t => (t.rxFsm, t.clkCnt, t.clkRun)) (exec .edge modu) = some (.waitStart, 4, true) := by decide +kernel

/-- The module of V20 in the middle of the byte 0x0A. -/
def slot (n : Nat) (acc : Byte) : State :=
  { modu with rxFsm := .receiving, clkRun := true, rxBitcnt := n, rxAcc := acc, rxCount := 1, rxLen := 2 }

/-- V20, TICK 0 -/
theorem test_tickRxStart : of (fun t => (t.rxAcc, t.rxBitcnt, t.rxFsm)) (exec (.tickRxStart false) { modu with rxFsm := .waitStart, clkRun := true, rxAcc := 0xFF, rxBitcnt := 8 }) = some (0, 0, .receiving) := by decide +kernel

/-- V20, TICK 4 -/
theorem test_tickRxData : of (fun t => (t.rxAcc, t.rxBitcnt)) (exec (.tickRxData true) (slot 3 0x02)) = some (0x0A, 4) := by decide +kernel

/-- V20, TICK 9 -/
theorem test_tickRxStop : of (fun t => (t.readByte .rxbuf 1, t.rxCount, t.frameComplete, t.rxFsm, t.clkRun)) (exec (.tickRxStop true) (slot 8 0x0A)) = some (0x0A, 2, true, .waitEdge, false) := by decide +kernel

/-- V21 -/
theorem test_tickRxStop_break : of (fun t => (t.rxCount, t.frameComplete, t.rxbuf)) (exec (.tickRxStop false) { slot 8 0 with frameComplete := true, rxCount := 3 }) = some (0, false, []) := by decide +kernel

/-- V26: with pol = 0 the logical bit 1 of tick 1 is electrical 0 -/
theorem test_tickTx : of (fun t => (t.lineOe, t.lineOut, t.txTick)) (exec (.tickTx true) { modu0 with txBusy := true, clkRun := true, txLen := 2, txbuf := [(0, 0x05), (1, 0xE4)], txTick := 1 }) = some (true, false, 2) := by decide +kernel

/-- V26, tick 21 -/
theorem test_tickTx_last : of (fun t => (t.lineOe, t.txBusy, t.clkRun, t.txTick)) (exec (.tickTx true) { modu0 with txBusy := true, clkRun := true, lineOe := true, txLen := 2, txTick := 21 }) = some (false, false, false, 22) := by decide +kernel

/-- R140 -/
theorem test_rxRead : of (·.result) (exec (.rxRead 0) { modu with rxCount := 1, rxbuf := [(0, 0x7A)] }) = some (.byte 0x7A) := by decide +kernel

/-- R140, U4 -/
theorem test_rxRead_outside : refusalOf (exec (.rxRead 16) modu) = some .badOffset := by decide +kernel

/-- R140 -/
theorem test_rxStatus : of (·.result) (exec .rxStatus { modu with rxCount := 3, frameComplete := true }) = some (.rxStatus 3 true) := by decide +kernel

/-- R141 -/
theorem test_rxSetlen : of (·.rxLen) (exec (.rxSetlen 16) modu) = some 16 := by decide +kernel

/-- R141, U4 -/
theorem test_rxSetlen_bound : refusalOf (exec (.rxSetlen 17) modu) = some .badCount := by decide +kernel

/-- R142 -/
theorem test_rxAck : of (·.frameComplete) (exec .rxAck { modu with frameComplete := true }) = some false := by decide +kernel

/-- P5 step 1 -/
theorem test_txSend : of (fun t => (t.readBytes .txbuf 2, t.txLen, t.txTick, t.txBusy, t.clkRun, t.clkCnt)) (exec (.txSend [0x05, 0xE4]) modu0) = some ([0x05, 0xE4], 2, 0, true, true, 8) := by decide +kernel

/-- R148, U4 -/
theorem test_txSend_busy : refusalOf (exec (.txSend [0x05]) { modu with txBusy := true }) = some .notAtRest := by decide +kernel

/-- R152 -/
theorem test_txStatus : of (·.result) (exec .txStatus { modu with txBusy := true }) = some (.txStatus true) := by decide +kernel

/-- R265 -/
theorem test_ser_before_polDetect : refusalOf (exec .rxStatus State.reset) = some .beforePolDetect := by decide +kernel

/-! ### Formats on the line -/

/-- P1 steps 3, 4 -/
theorem test_frame10_module : of (fun t => (t.readBytes .rxbuf 2, t.rxCount, t.frameComplete)) (run [.frame10 0x0A, .frame10 0x0B] modu) = some ([0x0A, 0x0B], 2, true) := by decide +kernel

/-- V25, P5 step 8 -/
theorem test_frame10_inverted : of (fun t => (t.readByte .rxbuf 0, t.rxCount)) (exec (.frame10 0x0A) modu0) = some (0x0A, 1) := by decide +kernel

/-- R170 -/
theorem test_frame10_master : of (fun t => (t.readByte .ring 0, t.ringWr, t.mRxSince)) (exec (.frame10 0x0A) mast) = some (0x0A, 1, 1) := by decide +kernel

/-- V21 -/
theorem test_break10_module : of (fun t => (t.rxCount, t.frameComplete, t.rxFsm)) (exec .break10 { modu with rxCount := 3, frameComplete := true }) = some (0, false, .waitEdge) := by decide +kernel

/-- V21, V22: a zero byte is no break -/
theorem test_break10_then_frame : of (fun t => (t.readByte .rxbuf 0, t.rxCount)) (run [.break10, .frame10 0x00] { modu with rxCount := 3 }) = some (0x00, 1) := by decide +kernel

/-- R178, R300: the wrong wiring complements a frame -/
theorem test_frame10_remapped : of (fun t => t.readByte .ring 0) (exec (.frame10 0x0A) { mast with mMap := .remapped }) = some 0xF5 := by decide +kernel

/-- V52 -/
theorem test_break10_master : of (fun t => (t.readByte .ring 0, t.mRxSince)) (exec .break10 mast) = some (0x00, 1) := by decide +kernel

/-- R64, R214 -/
theorem test_cw16 : of (fun t => t.readBytes .rxbuf 2) (exec (.cw16 0xEA0B) modu) = some [0x0B, 0xEA] := by decide +kernel

/-- R202: HAM.ENC(0x001) = 0xC08B -/
theorem test_argw : of (fun t => t.readBytes .rxbuf 2) (exec (.argw 1) modu) = some [0x8B, 0xC0] := by decide +kernel

/-- The Measurement Block of V70. -/
def block70 : List Byte := [0x05, 0xE4, 0x0C, 0xE5, 0x0C, 0xE6, 0x0C, 0xE7, 0x0C, 0xFA, 0x00, 0xBA, 0x85]

/-- The Version Block of V72. -/
def block72 : List Byte := [1, 2, 3, 4, 0x10, 0, 0x78, 0x56, 0x34, 0x12, 0xEF, 0x6A]

/-- The second Page Buffer of V73. -/
def page73 : List Byte := 3 :: (List.replicate 64 0xFF ++ [0x5B, 0xAE])

/-- V52 -/
theorem test_meas_master : of (fun t => (t.newest 13, t.mRxSince)) (run [.break10, .meas block70] mast) = some (block70, 14) := by decide +kernel

/-- P1 step 9, module B -/
theorem test_meas_module : of (fun t => (t.rxCount, t.frameComplete)) (exec (.meas block70) { modu with rxCount := 2 }) = some (15, false) := by decide +kernel

/-- R94 -/
theorem test_ver_master : of (fun t => t.newest 12) (exec (.ver block72) mast) = some block72 := by decide +kernel

/-- R217: rx_len = 67 receives a page -/
theorem test_page_module : of (fun t => (t.rxCount, t.frameComplete)) (exec (.page page73) { modu with cfg := { Config.default with rxbufLen := 67 }, rxLen := 67 }) = some (67, true) := by decide +kernel

/-- V24 -/
theorem test_overflow : of (fun t => (t.readBytes .rxbuf 4, t.rxCount, t.frameComplete)) (run [.frame10 1, .frame10 2, .frame10 3, .frame10 4, .frame10 5, .frame10 6] { modu with cfg := { Config.default with rxbufLen := 4 } }) = some ([1, 2, 3, 4], 4, true) := by decide +kernel

/-! ### SER, master side -/

/-- V51 -/
theorem test_capture : of (fun t => (t.newest 3, t.ringWr)) (run [.capture 0x11, .capture 0x22, .capture 0x33] { mast8 with ringWr := 6 }) = some ([0x11, 0x22, 0x33], 1) := by decide +kernel

/-- V53 -/
theorem test_capture_sending : of (fun t => (t.ring, t.ringWr, t.mRxSince)) (exec (.capture 0x11) { mast with mDir := .tx }) = some ([], 0, 0) := by decide +kernel

/-- R172 -/
theorem test_mReadlast : of (·.result) (exec (.mReadlast 4) { mast8 with ringWr := 2, ring := [(0, 0x70), (1, 0x71), (2, 0x12), (3, 0x13), (4, 0x14), (5, 0x15), (6, 0x16), (7, 0x17)] }) = some (.bytes [0x16, 0x17, 0x70, 0x71]) := by decide +kernel

/-- R173 -/
theorem test_mAvail : of (·.result) (exec .mAvail { mast with mRxSince := 14 }) = some (.avail 14) := by decide +kernel

/-- P1 step 1 -/
theorem test_mSend : of (fun t => (t.mDir, t.mBrk, t.mTxq)) (exec (.mSend true [0x0A, 0x0A]) mast) = some (.tx, true, [0x0A, 0x0A]) := by decide +kernel

/-- R175, U4 -/
theorem test_mSend_sending : refusalOf (exec (.mSend true []) { mast with mDir := .tx }) = some .sending := by decide +kernel

/-- V50: 0000000000 1 0010100001 0010100001 -/
theorem test_txc : of (fun t => (t.mDir, t.mRxSince, t.mTxq, t.mWave.map (·.level))) (run [.mSend true [0x0A, 0x0A], .txc] { mast with mRxSince := 9 }) = some (.rx, 0, [], [false, false, false, false, false, false, false, false, false, false, true, false, false, true, false, true, false, false, false, false, true, false, false, true, false, true, false, false, false, false, true]) := by decide +kernel

/-- R178 -/
theorem test_mSetmap : of (·.mMap) (exec (.mSetmap .remapped) mast) = some .remapped := by decide +kernel

/-- R176, D31: remapped, the break is electrical 1 -/
theorem test_agent : of (fun t => (t.mDir, t.mWave.length, (t.mWave.take 3).map (·.level))) (Host.Core.run core 4 { mast with mMap := .remapped, mDir := .tx, mBrk := true, mTxq := [0x0A, 0x0A], inputs := [.shift, .shift, .shift, .shift] }) = some (.rx, 31, [true, true, true]) := by decide +kernel

/-! ### CRC -/

/-- R191 -/
theorem test_crcInit : of (·.crc) (exec .crcInit { modu with crc := 0xFFFF }) = some 0 := by decide +kernel

/-- R192, V30 -/
theorem test_crcUpdate : (of (·.crc) (exec (.crcUpdate 0x01) modu), of (·.crc) (exec (.crcUpdate 0x80) modu)) = (some 0x1021, some 0x9188) := by decide +kernel

/-- V31 -/
theorem test_crcBlock : of (fun t => (t.result, t.crc)) (exec (.crcBlock [0x31, 0x32, 0x33, 0x34, 0x35, 0x36, 0x37, 0x38, 0x39]) modu) = some (.word 0x31C3, 0x31C3) := by decide +kernel

/-! ### Commands -/

/-- R200 -/
theorem test_cmdPack : of (·.result) (exec (.cmdPack 0xAA 1 1) mast) = some (.payloads [0x551, 0x001]) := by decide +kernel

/-- R201 -/
theorem test_cmdUnpack : of (·.result) (exec (.cmdUnpack 0x551) mast) = some (.unpacked 0xAA 1 0) := by decide +kernel

/-- R87 with `ADDR_W` = 6, `ARG_W` = 2: {000101, 000, 10} -/
theorem test_cmdPack_other : of (·.result) (exec (.cmdPack 5 0 2) { mast with cfg := { mast.cfg with addrW := 6, argW := 2, bcast := 0x2A } }) = some (.payloads [0b00010100010]) := by decide +kernel

/-- V60 -/
theorem test_cmdEncode : [exec (.cmdEncode 5 0 0) mast, exec (.cmdEncode 63 3 0) mast, exec (.cmdEncode 5 2 5) mast, exec (.cmdEncode 0xAA 1 64) mast, exec (.cmdEncode 0xAA 4 0) mast].map (of (·.result)) = [some (.bytes [0x0A, 0x0A]), some (.bytes [0x68, 0xEF]), some (.bytes [0x80, 0x2A, 0x02, 0xD0]), some (.bytes [0xA4, 0x45, 0x81, 0x81]), some (.bytes [0xA6, 0x95])] := by decide +kernel

/-- V61 -/
theorem test_cmdDecode : [[0x0A, 0x0A], [0x0E, 0x0A], [0x0F, 0x0A], [0x0A, 0x8A], [0xA4, 0x45], [0xA5, 0x45, 0x8B, 0xC0], [0xA4, 0x45, 0x8B, 0x40], [0x0A, 0x0A, 0x12, 0x34]].map (fun b => of (·.result) (exec (.cmdDecode b) mast)) = [some (.command 5 0 0), some (.command 5 0 0), some (.exception (.decodeError 2 false)), some (.exception (.decodeError 0 true)), some .needMore, some (.command 0xAA 1 1), some (.exception (.decodeError 0 true)), some (.command 5 0 0)] := by decide +kernel

/-- P1 step 1 -/
theorem test_cmdSend : of (fun t => (t.mDir, t.mBrk, t.mTxq)) (exec (.cmdSend 5 0 0) mast) = some (.tx, true, [0x0A, 0x0A]) := by decide +kernel

/-- A module that has received the given bytes after a break. -/
def received (a : Addr) (bs : List Byte) : State :=
  { modu with myAddr := a, rxbuf := Memory.writeList [] 0 bs, rxCount := bs.length, frameComplete := decide (2 ≤ bs.length) }

/-- P2 step 1 -/
theorem test_cmdRecv : of (fun t => (t.result, t.rxLen, t.frameComplete)) (exec .cmdRecv (received 5 [0x0E, 0x0A])) = some (.delivered 5 0 0 false, 2, false) := by decide +kernel

/-- P3 steps 2a, 2b taken at once -/
theorem test_cmdRecv_claims : of (fun t => (t.result, t.myAddr, t.fwdReq, t.rxLen)) (exec .cmdRecv (received 0 [0xA4, 0x45, 0x8B, 0xC0])) = some (.delivered 0xAA 1 1 true, 1, some 2, 2) := by decide +kernel

/-- P3 step 2a -/
theorem test_cmdRecv_needMore : of (fun t => (t.result, t.rxLen, t.frameComplete)) (exec .cmdRecv (received 0 [0xA4, 0x45])) = some (.noCommand, 4, false) := by decide +kernel

/-- P2 step 2 -/
theorem test_cmdRecv_discards : of (fun t => (t.result, t.rxLen, t.frameComplete, t.rxCount)) (exec .cmdRecv (received 5 [0x0F, 0x0A])) = some (.noCommand, 2, false, 2) := by decide +kernel

/-- V62 -/
theorem test_filter : [exec (.filter 5 0 0) { modu with myAddr := 5 }, exec (.filter 5 0 0) { modu with myAddr := 7 }, exec (.filter 0 0 0) modu, exec (.filter 0xAA 5 0) modu, exec (.filter 0xAA 4 0) modu, exec (.filter 64 0 0) modu].map (of (·.result)) = [some (.delivered 5 0 0 false), some .noCommand, some .noCommand, some (.delivered 0xAA 5 0 true), some .noCommand, some .noCommand] := by decide +kernel

/-- V63 -/
theorem test_setaddr : [(0, 1), (3, 1), (0, 0), (0, 64), (0, 63)].map (fun p : Addr × Data11 => of (fun t => (t.myAddr, t.fwdReq)) (exec (.setaddr 0xAA p.2) { modu with myAddr := p.1 })) = [some (1, some 2), some (3, none), some (0, none), some (0, none), some (63, some 64)] := by decide +kernel

/-- P3 step 1 -/
theorem test_addrmode : of (fun t => (t.myAddr, t.result)) (exec (.addrmode ⟨0xAA, 0⟩) { modu with myAddr := 9 }) = some (0, .delivered 0xAA 5 0 true) := by decide +kernel

/-- R211, R213, R214, R216 to R218 -/
theorem test_delivered_commands : [exec (.getdata ⟨5, 0⟩) { modu with myAddr := 5 }, exec (.shunton 5 5) { modu with myAddr := 5 }, exec (.version ⟨5, 0⟩) { modu with myAddr := 5 }, exec (.breakCmd ⟨0xAA, 0⟩) modu, exec (.boot ⟨0xAA, 0⟩) modu, exec (.reserved4 ⟨0xAA, 0⟩) modu].map (of (·.result)) = [some (.delivered 5 0 0 false), some (.delivered 5 2 5 false), some (.delivered 5 3 0 false), some (.delivered 0xAA 6 0 true), some (.delivered 0xAA 7 0 true), some .noCommand] := by decide +kernel

/-- R219 -/
theorem test_forward : of (fun t => (t.readBytes .txbuf 4, t.txLen, t.txBusy, t.fwdReq)) (exec (.forward 2) { modu with fwdReq := some 2 }) = some ([0xA4, 0x45, 0x8A, 0x20], 4, true, none) := by decide +kernel

/-- P3 step 6 -/
theorem test_moduleCount : moduleCount { mast with ringWr := 4, ring := [(0, 0xA4), (1, 0x45), (2, 0x89), (3, 0x10)] } = some 3 := by decide +kernel

/-! ### Blocks -/

/-- V70 -/
theorem test_measBuild : of (·.result) (exec (.measBuild 0x0CE4 0x0CE5 0x0CE6 0x0CE7 0x00FA) { modu with myAddr := 5 }) = some (.bytes block70) := by decide +kernel

/-- V70, V71 -/
theorem test_measCheck : [exec (.measCheck block70) mast, exec (.measCheck (block70.set 3 0xE1)) mast].map (of (·.result)) = [some (.meas 5 [0x0CE4, 0x0CE5, 0x0CE6, 0x0CE7, 0x00FA]), some (.exception (.crcMismatch 0x8AD7 0x85BA))] := by decide +kernel

/-- V72 -/
theorem test_verBuild : of (·.result) (exec (.verBuild [1, 2, 3, 4] [0x10, 0] 0x12345678) modu) = some (.bytes block72) := by decide +kernel

/-- R247 -/
theorem test_verCheck : of (·.result) (exec (.verCheck block72) mast) = some (.version [1, 2, 3, 4] [0x10, 0] 0x12345678) := by decide +kernel

/-- V73 -/
theorem test_pageBuild : of (·.crc) (exec (.pageBuild 0 ((List.range 32).map (BitVec.ofNat 16))) mast) = some 0x59DD := by decide +kernel

/-- V73 -/
theorem test_pageBuild_ones : of (·.result) (exec (.pageBuild 3 (List.replicate 32 0xFFFF)) mast) = some (.bytes page73) := by decide +kernel

/-- V73, R249 -/
theorem test_pageCheck : of (·.result) (exec (.pageCheck page73) modu) = some (.page 3 (List.replicate 32 0xFFFF)) := by decide +kernel

/-- R101 -/
theorem test_acquireData : (of (·.result) (acquireData mast), of (·.result) (acquireData { mast with mRxSince := 13, ringWr := 13, ring := Memory.writeList [] 0 block70 })) = (some .noFrame, some (.meas 5 [0x0CE4, 0x0CE5, 0x0CE6, 0x0CE7, 0x00FA])) := by decide +kernel

/-! ### The step -/

/-- R13: no event, no change -/
theorem test_step_reset : nextOf (step State.reset) = some State.reset := by decide +kernel

/-- R215 as the first instruction after reset -/
theorem test_step_fetch : of (fun t => (t.result, t.inputs)) (step (State.reset.withFetchWord 16 0x555)) = some (.delivered 0xAA 5 0 true, []) := by decide +kernel

/-- R281: asleep, the line falls: the host wakes, `pol` is lost, and the edge starts a slot -/
theorem test_wake : of (fun t => (t.asleep, t.polDetected, t.rxFsm)) (Host.Core.run core 3 { modu with inputs := [.sleep, .line false] }) = some (false, false, .waitStart) := by decide +kernel

/-- R281, R132: asleep inside a byte slot, the line falls: the host wakes, the slot is kept, no EDGE -/
theorem test_wake_in_slot : of (fun t => (t.asleep, t.polDetected, t.rxFsm, t.edgePend)) (Host.Core.run core 2 { modu with rxFsm := .receiving, clkRun := true, inputs := [.sleep, .line false] }) = some (false, false, .receiving, false) := by decide +kernel

/-- R281, R132: asleep in a transmission, the block drives the start bit: that change wakes the host too -/
theorem test_wake_by_drive : of (fun t => (t.asleep, t.polDetected, t.lineOe, t.lineOut)) (exec (.tickTx true) { modu with asleep := true, txBusy := true, clkRun := true, txLen := 1 }) = some (false, false, true, false) := by decide +kernel

/-- R281: a sleeping host invokes nothing -/
theorem test_asleep : refusalOf (step { modu with asleep := true, inputs := [.request ⟨.rxStatus, []⟩] }) = some .hostAsleep := by decide +kernel

/-- R176: a rest of one bit time and a half between two frames -/
theorem test_rest : of (·.mWave) (step { mast with mDir := .tx, mPhase := .frame, mTxq := [1], inputs := [.rest (3 / 2)] }) = some [⟨true, 3 / 2⟩] := by decide +kernel

/-- R176: no rest before the break -/
theorem test_rest_refused : refusalOf (Host.Core.run core 2 { mast with inputs := [.request ⟨.mSend, [1, 10]⟩, .rest 1] }) = some .noRest := by decide +kernel

/-- V20, V27 by line levels and timer counts: 0010100001 with BIT_TICKS = 8; 80 counts, 7 line inputs, one EDGE and ten TICKs -/
theorem test_step_ticks : of (fun t => (t.readByte .rxbuf 0, t.rxCount, t.rxFsm)) (Host.Core.run core 98 { modu with inputs := [.line false] ++ List.replicate 12 .count ++ [.line false] ++ List.replicate 4 .count ++ [.line true] ++ List.replicate 8 .count ++ [.line false] ++ List.replicate 8 .count ++ [.line true] ++ List.replicate 8 .count ++ [.line false] ++ List.replicate 32 .count ++ [.line true] ++ List.replicate 8 .count }) = some (0x0A, 1, .waitEdge) := by decide +kernel

/-! ### Witnesses: for each obligation with hypotheses, states and operands that meet them together, clause by clause -/

open SpecForm

theorem witness_atRest : AtRest modu ∧ AtRest modu0 ∧ SerReady modu :=
  ⟨⟨⟨rfl, rfl⟩, rfl, rfl, rfl, rfl, rfl⟩, ⟨⟨rfl, rfl⟩, rfl, rfl, rfl, rfl, rfl⟩, rfl, rfl⟩

/-- `Packs` and `SpecPacking`: the spec's packing, and another that R87 allows -/
theorem witness_packs : SpecPacking modu.cfg ∧ Packs mast.cfg ∧ Packs { mast.cfg with addrW := 6, argW := 2, bcast := 0x2A } ∧ { mast.cfg with addrW := 6, argW := 2, bcast := 0x2A }.wf = true :=
  ⟨⟨rfl, rfl, rfl, rfl, rfl⟩, rfl, rfl, by decide⟩

/-- HamDecFollowsDecisionTable, its four clauses -/
theorem witness_hamDec : (syndrome 0x0A0A = 0 ∧ wordParity 0x0A0A = false) ∧ (syndrome 0x0A0E ≠ 0 ∧ wordParity 0x0A0E = true) ∧ (syndrome 0x8A0A = 0 ∧ wordParity 0x8A0A = true) ∧ (syndrome 0x0A0F ≠ 0 ∧ wordParity 0x0A0F = false) := by decide +kernel

/-- SyndromeParityAndExtractByPosition, HamDecOneAndTwoFlippedBits, HamDecThreeFlippedBitsNeverRight: bounds -/
theorem witness_positions : (0 < 4 ∧ 3 < 4 ∧ 0 < 11 ∧ 10 < 11) ∧ (0 < 15 ∧ 14 < 15 ∧ 0 < 1 ∧ 1 < 16 ∧ 14 < 15 ∧ 15 < 16) ∧ (0 < 1 ∧ 1 < 2 ∧ 2 < 16 ∧ 13 < 14 ∧ 14 < 15 ∧ 15 < 16) := by decide

/-- HamDecThreeFlippedBitsNeverRight: positions 1, 2, 3 are rejected, 14, 15, 16 are not -/
theorem witness_triples : syndrome (hamEncode 0x028 ^^^ oneBit 0 ^^^ oneBit 1 ^^^ oneBit 2) = 0 ∧ syndrome (hamEncode 0x028 ^^^ oneBit 13 ^^^ oneBit 14 ^^^ oneBit 15) ≠ 0 := by decide +kernel

/-- CrcLinearityAndResidues: strings of one length, and one whose CRC has equal bytes -/
theorem witness_crc : ([1, 2] : List Byte).length = ([3, 4] : List Byte).length ∧ crcBlock [0, 189] = 0x7676 ∧ lo (crcBlock [0, 189]) = hi (crcBlock [0, 189]) := by decide +kernel

/-- MeasBuildLaysOutTheBlock, VerAndPageBuildLayOutTheBlock -/
theorem witness_build : (modu.cfg.role = .moduleRole ∧ modu.cfg.wordOrder = .little) ∧ (([1, 2, 3, 4] : List Byte).length = 4 ∧ ([0x10, 0] : List Byte).length = 2) ∧ (mast.cfg.role = .masterRole ∧ mast.cfg.wordOrder = .little) ∧ (List.replicate 32 (0xFFFF : Word16)).length = 32 := by decide +kernel

/-- MeasCheckComparesTheTrailer: the trailer of V70, and another -/
theorem witness_measCheck : mast.cfg.role = .masterRole ∧ mast.cfg.wordOrder = .little ∧ crcBlock [0x05, 0xE4, 0x0C, 0xE5, 0x0C, 0xE6, 0x0C, 0xE7, 0x0C, 0xFA, 0x00] = (0x85#8 ++ 0xBA#8) ∧ crcBlock [0x05, 0xE1, 0x0C, 0xE5, 0x0C, 0xE6, 0x0C, 0xE7, 0x0C, 0xFA, 0x00] ≠ (0x85#8 ++ 0xBA#8) := by decide +kernel

/-- VerAndPageCheckCompareTheTrailer: the trailers of V72 and V73, and others -/
theorem witness_verPageCheck : crcBlock [1, 2, 3, 4, 0x10, 0, 0x78, 0x56, 0x34, 0x12] = (0x6A#8 ++ 0xEF#8) ∧ crcBlock [1, 2, 3, 4, 0x10, 0, 0x78, 0x56, 0x34, 0x13] ≠ (0x6A#8 ++ 0xEF#8) ∧ (List.replicate 32 ((0xFF, 0xFF) : Byte × Byte)).length = 32 ∧ crcBlock (3 :: (List.replicate 32 ((0xFF, 0xFF) : Byte × Byte)).flatMap fun w => [w.1, w.2]) = (0xAE#8 ++ 0x5B#8) ∧ crcBlock (4 :: (List.replicate 32 ((0xFF, 0xFF) : Byte × Byte)).flatMap fun w => [w.1, w.2]) ≠ (0xAE#8 ++ 0x5B#8) := by decide +kernel

/-- BuiltBlocksPassTheirCheck, in both byte orders -/
theorem witness_builtBlocks : (mast.cfg.role = .masterRole ∧ modu.cfg.role = .moduleRole ∧ mast.cfg.wordOrder = modu.cfg.wordOrder) ∧ ({ mast.cfg with wordOrder := .big }.wordOrder = { modu.cfg with wordOrder := .big }.wordOrder) := by decide +kernel

/-- An answer whose next state has a known result is a next state with that result. -/
theorem next_of_result {a : Answer} {r : Result} (h : of (·.result) a = some r) : ∃ t, a = .next t ∧ t.result = r := by
  cases a with
  | next t => exact ⟨t, rfl, Option.some.inj h⟩
  | fault f => cases h
  | refused f => cases h

/-- V70 -/
theorem block70_checks : of (·.result) (exec (.measCheck block70) mast) = some (.meas 5 [0x0CE4, 0x0CE5, 0x0CE6, 0x0CE7, 0x00FA]) := by decide +kernel

/-- OneChangedByteIsRejected: a first and a last byte of V70, V72 and V73 -/
theorem witness_oneChangedByte : (0 < block70.length ∧ (6 : Byte) ≠ block70.getD 0 0 ∧ block70.length = 13 ∧ ∃ t a vs, exec (.measCheck block70) mast = .next t ∧ t.result = .meas a vs) ∧ (11 < block72.length ∧ (6 : Byte) ≠ block72.getD 11 0 ∧ block72.length = 12 ∧ ∃ t sw hw sn, exec (.verCheck block72) mast = .next t ∧ t.result = .version sw hw sn) ∧ (66 < page73.length ∧ (6 : Byte) ≠ page73.getD 66 0 ∧ page73.length = 67 ∧ ∃ t n ws, exec (.pageCheck page73) modu = .next t ∧ t.result = .page n ws) :=
  ⟨⟨by decide, by decide, by decide, let ⟨t, h⟩ := next_of_result block70_checks; ⟨t, _, _, h⟩⟩,
    ⟨by decide, by decide, by decide, let ⟨t, h⟩ := next_of_result test_verCheck; ⟨t, _, _, _, h⟩⟩,
    by decide, by decide +kernel, by decide, let ⟨t, h⟩ := next_of_result test_pageCheck; ⟨t, _, _, h⟩⟩

/-- CmdPackAndUnpack, CmdEncodeSendsLowBytesFirst, CmdDecodeFollowsItsRule, CommandSurvivesOneErrorPerWord: opcodes in
and outside `WIDE`, every answer of the first and the second word, flips at the ends of the range -/
theorem witness_cmd : ((1 : Opcode) ∈ mast.cfg.wide ∧ (0 : Opcode) ∉ mast.cfg.wide ∧ mast.cfg.wordOrder = .little) ∧ (hamDecode (0x0A#8 ++ 0x0F#8) = .error (.decodeError 2 false) ∧ hamDecode (0x0A#8 ++ 0x0A#8) = .ok 0x028 ∧ opOf mast.cfg 0x028 ∉ mast.cfg.wide) ∧ (hamDecode (0x45#8 ++ 0xA4#8) = .ok 0x551 ∧ opOf mast.cfg 0x551 ∈ mast.cfg.wide ∧ hamDecode (0x40#8 ++ 0x8B#8) = .error (.decodeError 0 true) ∧ hamDecode (0xC0#8 ++ 0x8B#8) = .ok 1) ∧ ((63 : Addr).toNat < 2 ^ mast.cfg.addrW ∧ (0xAA : Addr).toNat < 2 ^ mast.cfg.addrW ∧ mast.cfg.argW = 0) ∧ (([0x8B, 0xC0] : List Byte).length = 2 ∧ oneBit 0 = 1 ∧ oneBit 14 = 0x4000) := by decide +kernel

/-- CmdSendIsBreakThenTheEncodedBytes, MSendFlipsTheLineToTransmit, MSetmapSelectsTheWiring, TransmitAgentWaveform: a
break alone, a payload alone, the longest payload -/
theorem witness_send : (mast.cfg.role = .masterRole ∧ mast.mDir = .rx ∧ 4 ≤ mast.cfg.ringLen) ∧ (true = true ∨ 1 ≤ ([] : List Byte).length) ∧ (false = true ∨ 1 ≤ ([1] : List Byte).length) ∧ (List.replicate 128 (0 : Byte)).length ≤ mast.cfg.ringLen ∧ mast.edgePend = false ∧ mast.tickPend = false := by decide +kernel

/-- CmdRecvFollowsItsRule: role and byte order; one byte; nothing new; and a new frame whose first word fails -/
theorem witness_cmdRecv_first : (modu.cfg.role = .moduleRole ∧ modu.cfg.wordOrder = .little) ∧ (received 5 [0x0A]).rxCount < 2 ∧ (2 ≤ { received 5 [0x0A, 0x0A] with frameComplete := false }.rxCount ∧ { received 5 [0x0A, 0x0A] with frameComplete := false }.rxLen = 2) ∧ (2 ≤ (received 5 [0x0F, 0x0A]).rxCount ∧ (received 5 [0x0F, 0x0A]).frameComplete = true ∧ hamDecode ((received 5 [0x0F, 0x0A]).readByte .rxbuf 1 ++ (received 5 [0x0F, 0x0A]).readByte .rxbuf 0) = .error (.decodeError 2 false)) := by decide +kernel

/-- CmdRecvFollowsItsRule: a one-word command; a two-word command with three and with four bytes there, its second word
failing and decoding; and `rx_len` at 4 -/
theorem witness_cmdRecv_second : (hamDecode ((received 5 [0x0A, 0x0A]).readByte .rxbuf 1 ++ (received 5 [0x0A, 0x0A]).readByte .rxbuf 0) = .ok 0x028 ∧ opOf modu.cfg 0x028 ∉ modu.cfg.wide) ∧ ((received 0 [0xA4, 0x45, 0x8B]).rxCount < 4 ∧ hamDecode ((received 0 [0xA4, 0x45, 0x8B]).readByte .rxbuf 1 ++ (received 0 [0xA4, 0x45, 0x8B]).readByte .rxbuf 0) = .ok 0x551 ∧ opOf modu.cfg 0x551 ∈ modu.cfg.wide) ∧ (4 ≤ (received 0 [0xA4, 0x45, 0x8B, 0x40]).rxCount ∧ hamDecode ((received 0 [0xA4, 0x45, 0x8B, 0x40]).readByte .rxbuf 3 ++ (received 0 [0xA4, 0x45, 0x8B, 0x40]).readByte .rxbuf 2) = .error (.decodeError 0 true)) ∧ (hamDecode ((received 0 [0xA4, 0x45, 0x8B, 0xC0]).readByte .rxbuf 3 ++ (received 0 [0xA4, 0x45, 0x8B, 0xC0]).readByte .rxbuf 2) = .ok 1 ∧ { received 0 [0xA4, 0x45, 0x8B, 0xC0] with rxLen := 4 }.rxLen ≠ 2) := by decide +kernel

/-- FilterFollowsItsRule, CommandsDeliveredWithoutBlockEffect, AddrmodeDropsTheAddress: broadcast, own address, another
address, address 0 at an unaddressed module -/
theorem witness_filter : modu.cfg.role = .moduleRole ∧ (0xAA : Addr) = modu.cfg.bcast ∧ ((4 : Opcode) = 4 ∧ (0 : Opcode) ≠ 4) ∧ ((5 : Addr) ≠ modu.cfg.bcast ∧ (5 : Addr) ≠ 0 ∧ 5 = (received 5 []).myAddr) ∧ ((7 : Addr) ≠ modu.cfg.bcast ∧ 7 ≠ (received 5 []).myAddr) ∧ (0 : Addr) ≠ modu.cfg.bcast ∧ 0 = modu.myAddr := by decide +kernel

/-- SetaddrClaimsASlotOnce: slots 1 and 63 claimed; slots 0 and 64 and an addressed module not -/
theorem witness_setaddr : modu.cfg.role = .moduleRole ∧ modu.myAddr = 0 ∧ (1 ≤ (1 : Data11).toNat ∧ (1 : Data11).toNat ≤ 63) ∧ (1 ≤ (63 : Data11).toNat ∧ (63 : Data11).toNat ≤ 63) ∧ (0 : Data11).toNat = 0 ∧ 63 < (64 : Data11).toNat ∧ (received 5 []).myAddr ≠ 0 := by decide +kernel

/-- OnlyAddressCommandsWriteMyAddr: instructions that answer a next state, one that writes `my_addr` among them -/
theorem witness_myAddr : (∃ t, exec (.setaddr 0xAA 1) modu = .next t ∧ t.myAddr ≠ modu.myAddr) ∧ ∃ t, exec .rxStatus modu = .next t := ⟨⟨_, rfl, by decide +kernel⟩, _, rfl⟩

/-- ForwardStartsTheSetaddrBroadcast, TxSendLoadsAndStartsTheClock, TransmissionCarriesEveryFrame: the shortest and the
longest transmission -/
theorem witness_txSend : (SerReady modu ∧ modu.asleep = false ∧ modu.rxFsm = .waitEdge ∧ modu.txBusy = false ∧ SpecPacking modu.cfg ∧ 13 ≤ modu.cfg.txbufLen) ∧ (1 ≤ ([5] : List Byte).length ∧ (List.replicate 16 (5 : Byte)).length ≤ modu.cfg.txbufLen ∧ 1 ≤ modu.cfg.turnaround) ∧ (1 ≤ [true].length ∧ (List.replicate 12 true).length ≤ 10 * ([5] : List Byte).length + modu.cfg.turnaround) := ⟨⟨witness_atRest.2.2, rfl, rfl, rfl, witness_packs.1, by decide⟩, by decide, by decide⟩

/-- SentCommandIsReceived -/
theorem witness_sentCommand : mast.cfg.role = .masterRole ∧ mast.mDir = .rx ∧ 4 ≤ mast.cfg.ringLen ∧ AtRest modu0 ∧ 4 ≤ modu0.cfg.rxbufLen ∧ Packs mast.cfg ∧ (0xAA : Addr).toNat < 2 ^ mast.cfg.addrW ∧ mast.cfg.addrW = modu0.cfg.addrW ∧ mast.cfg.argW = modu0.cfg.argW ∧ mast.cfg.wide = modu0.cfg.wide ∧ mast.cfg.wordOrder = modu0.cfg.wordOrder := ⟨rfl, rfl, by decide, witness_atRest.2.1, by decide, rfl, by decide, rfl, rfl, rfl, rfl⟩

/-- EdgeStartsASlotOnlyWhenArmed: armed, inside a slot, transmitting -/
theorem witness_edge : (SerReady modu ∧ modu.asleep = false ∧ modu.rxFsm = .waitEdge ∧ modu.txBusy = false) ∧ (SerReady (slot 0 0) ∧ (slot 0 0).rxFsm ≠ .waitEdge) ∧ (SerReady { modu with txBusy := true } ∧ { modu with txBusy := true }.txBusy = true) := ⟨⟨⟨rfl, rfl⟩, by decide⟩, ⟨⟨rfl, rfl⟩, by decide⟩, ⟨rfl, rfl⟩, rfl⟩

/-- TickSamplesStartAndDataBits: the start bit, the first and the last data bit -/
theorem witness_tickRx : (SerReady (slot 0 0) ∧ (slot 0 0).clkRun = true ∧ (slot 0 0).txBusy = false) ∧ ({ slot 0 0 with rxFsm := .waitStart }.rxFsm = .waitStart) ∧ ((slot 0 0).rxFsm = .receiving ∧ (slot 0 0).rxBitcnt < 8 ∧ (slot 7 0).rxBitcnt < 8) := ⟨⟨⟨rfl, rfl⟩, by decide⟩, rfl, by decide⟩

/-- StopBitTickDisposesOfTheSlot: a break; a byte at the last offset; a byte beyond it -/
theorem witness_tickStop : (SerReady (slot 8 0) ∧ (slot 8 0).clkRun = true ∧ (slot 8 0).txBusy = false ∧ (slot 8 0).rxFsm = .receiving ∧ (slot 8 0).rxBitcnt = 8) ∧ ((slot 8 0).rxAcc = 0 ∧ (false == (slot 8 0).pol) = false) ∧ ((slot 8 0x0A).rxAcc ≠ 0 ∧ { slot 8 0x0A with rxCount := 15 }.rxCount < modu.cfg.rxbufLen) ∧ modu.cfg.rxbufLen ≤ { slot 8 0x0A with rxCount := 16 }.rxCount := ⟨⟨⟨rfl, rfl⟩, by decide⟩, by decide, by decide, by decide⟩

/-- A module in a transmission of two bytes at tick `n`. -/
def sending (n : Nat) : State := { modu with txBusy := true, clkRun := true, txLen := 2, txTick := n }

/-- TransmitTickDrivesOneBit: ticks 0, 19; 20; 21 with TURNAROUND 2 -/
theorem witness_tickTx : (SerReady (sending 0) ∧ (sending 0).clkRun = true ∧ (sending 0).txBusy = true) ∧ ((sending 0).txTick < 10 * (sending 0).txLen ∧ (sending 19).txTick < 10 * (sending 19).txLen) ∧ (10 * (sending 20).txLen ≤ (sending 20).txTick ∧ (sending 20).txTick + 1 < 10 * (sending 20).txLen + modu.cfg.turnaround) ∧ 10 * (sending 21).txLen + modu.cfg.turnaround ≤ (sending 21).txTick + 1 := ⟨⟨⟨rfl, rfl⟩, by decide⟩, by decide, by decide, by decide⟩

/-- ModuleReceivesFormatsByteByByte, NothingIsReceivedWhileTransmitting: a page at a full and at an empty buffer -/
theorem witness_moduleReceives : AtRest { modu with rxCount := 16 } ∧ { modu with rxCount := 16 }.rxCount ≤ modu.cfg.rxbufLen ∧ (Instr.page page73).wf = true ∧ lineBytes .little (.page page73) = some page73 ∧ lineBytes .little (.cw16 0xEA0B) = some [0x0B, 0xEA] ∧ SerReady (sending 3) ∧ (sending 3).asleep = false ∧ (sending 3).txBusy = true := ⟨⟨⟨rfl, rfl⟩, rfl, rfl, rfl, rfl, rfl⟩, by decide, by decide, rfl, by decide +kernel, ⟨rfl, rfl⟩, rfl, rfl⟩

/-- MasterCapturesFormatsByteByByte, WrongMapComplementsEveryByte: receiving, with the write index at the ring's last
offset, under the matching and the other setting; and sending -/
theorem witness_masterCaptures : (mast.cfg.role = .masterRole ∧ 67 ≤ mast.cfg.ringLen ∧ { mast with ringWr := 127 }.ringWr < mast.cfg.ringLen ∧ mast.mDir = .rx) ∧ MapMatches mast ∧ ¬ MapMatches { mast with mMap := .remapped } ∧ { mast with mDir := .tx }.mDir = .tx ∧ lineBytes .little (.meas block70) = some block70 := ⟨by decide, rfl, nofun, rfl, rfl⟩

/-- ReadsHaveNoSideEffect, RxSetlenAndRxAck: the ends of each range -/
theorem witness_reads : (15 < modu.cfg.rxbufLen ∧ modu.cfg.rxbufLen ≤ 16 ∧ 1 ≤ modu.cfg.rxbufLen) ∧ 0 < (received 5 [1]).rxCount ∧ (1 ≤ mast.cfg.ringLen ∧ 128 ≤ mast.cfg.ringLen ∧ mast.cfg.ringLen < 129) := by decide +kernel

/-- ReadlastReturnsTheNewestCaptures: one byte, and as many as the ring holds -/
theorem witness_readlast : mast8.cfg.role = .masterRole ∧ mast8.mDir = .rx ∧ { mast8 with ringWr := 7 }.ringWr < mast8.cfg.ringLen ∧ 1 ≤ ([1] : List Byte).length ∧ ([1, 2, 3, 4, 5, 6, 7, 8] : List Byte).length ≤ mast8.cfg.ringLen := by decide +kernel

/-- SerRefusedBeforePolDetect, PolDetectTakesTheIdleLevel -/
theorem witness_beforePol : State.reset.cfg.role = .moduleRole ∧ State.reset.polDetected = false ∧ (Instr.frame10 5).wf = true ∧ lineBytes .little (.frame10 5) = some [5] := ⟨rfl, rfl, rfl, rfl⟩

/-- OutsidePreconditionsIsRefused: busy; inside a slot; no byte and too many; a stopped clock; each other TICK case; a
sending master; too long a payload -/
theorem witness_outside : (SerReady (sending 3) ∧ (sending 3).txBusy = true) ∧ (SerReady (slot 3 0) ∧ (slot 3 0).rxFsm ≠ .waitEdge) ∧ (([] : List Byte).length = 0 ∧ modu.cfg.txbufLen < (List.replicate 17 (0 : Byte)).length) ∧ modu.clkRun = false ∧ (¬ ((slot 3 0).txBusy = false ∧ (slot 3 0).rxFsm = .waitStart) ∧ ¬ ((slot 8 0).txBusy = false ∧ (slot 8 0).rxFsm = .receiving ∧ (slot 8 0).rxBitcnt < 8) ∧ ¬ ((slot 7 0).txBusy = false ∧ (slot 7 0).rxFsm = .receiving ∧ (slot 7 0).rxBitcnt = 8) ∧ ¬ (slot 7 0).txBusy = true) ∧ { mast with mDir := .tx }.mDir = .tx ∧ mast.cfg.ringLen < (List.replicate 129 (0 : Byte)).length := ⟨⟨⟨rfl, rfl⟩, rfl⟩, ⟨⟨rfl, rfl⟩, by decide⟩, by decide, rfl, by decide, rfl, by decide +kernel⟩

/-- TxcReturnsToReceive: receiving; sending with a break and a byte left -/
theorem witness_txc : mast.cfg.role = .masterRole ∧ mast.mDir = .rx ∧ { mast with mDir := .tx, mBrk := true, mTxq := [1] }.mDir = .tx := by decide +kernel

/-- AgentRestsInGapAndBetweenFrames: in the gap, between two frames; before the first, after the last, while receiving -/
theorem witness_agentRests : (mast.edgePend = false ∧ mast.tickPend = false ∧ { mast with inputs := [.rest (1 / 2)] }.inputs = .rest (1 / 2) :: [] ∧ (0 : Rat) < 1 / 2 ∧ (0 : Rat) ≤ 0) ∧ ({ mast with mDir := .tx, mPhase := .gap }.mPhase = .gap ∧ { mast with mDir := .tx, mPhase := .frame, mTxq := [1] }.mTxq ≠ []) ∧ ({ mast with mDir := .tx }.mPhase = .start ∧ { mast with mDir := .tx, mPhase := .frame }.mTxq = [] ∧ mast.mDir = .rx) := by decide +kernel

/-- StepRunsTheDecodedInstruction -/
theorem witness_step : modu.edgePend = false ∧ modu.tickPend = false ∧ { modu with inputs := [.request ⟨.cmdw, [0x028]⟩] }.inputs = .request ⟨.cmdw, [0x028]⟩ :: [] ∧ decode modu.cfg ⟨.cmdw, [0x028]⟩ = .ok (.getdata ⟨5, 0⟩) ∧ modu.asleep = false ∧ { modu with asleep := true }.asleep = true ∧ fromLine (.getdata ⟨5, 0⟩) = false ∧ fromLine .break10 = true := ⟨rfl, rfl, rfl, rfl, rfl, rfl, rfl, rfl⟩

/-- RaisedInterruptsRunFirst: a raised EDGE; a raised TICK of each case -/
theorem witness_raised : (SerReady { modu with edgePend := true } ∧ { modu with edgePend := true }.edgePend = true) ∧ ((slot 7 0).edgePend = false ∧ { slot 7 0 with tickPend := true }.tickPend = true ∧ (slot 7 0).clkRun = true) ∧ ((sending 3).txBusy = true ∧ { slot 0 0 with rxFsm := .waitStart }.rxFsm = .waitStart ∧ (slot 7 0).rxBitcnt < 8 ∧ (slot 8 0).rxBitcnt = 8) := ⟨⟨⟨rfl, rfl⟩, rfl⟩, by decide, by decide⟩

/-- ClockRaisesTickWhenItsCountIsUsedUp: seven counts of eight, and all eight -/
theorem witness_clock : (slot 3 0).clkRun = true ∧ (slot 3 0).edgePend = false ∧ (slot 3 0).tickPend = false ∧ { slot 3 0 with inputs := List.replicate 8 .count, clkCnt := 8 }.inputs = List.replicate 8 .count ++ [] ∧ (7 < 8 ∧ 1 ≤ 8) := by decide +kernel

/-- EdgeDetectorRaisesOnFallingLevel: an undriven line that falls, and a driven one at its own level -/
theorem witness_edgeDetector : (SerReady modu ∧ modu.asleep = false ∧ modu.edgePend = false ∧ modu.tickPend = false ∧ { modu with inputs := [.line false] }.inputs = .line false :: []) ∧ (modu.lineOe = true → false = modu.lineOut) ∧ ({ modu with lineOe := true, lineOut := true }.lineOe = true → true = { modu with lineOe := true, lineOut := true }.lineOut) := ⟨⟨⟨rfl, rfl⟩, rfl, rfl, rfl, rfl⟩, nofun, fun _ => rfl⟩

/-- SleepAndWake: going to sleep at rest and inside a slot; asleep at logical 1, with the line unchanged, falling, and (from
logical 0) rising; asleep while this block drives the line -/
theorem witness_sleep : (SerReady modu ∧ modu.edgePend = false ∧ modu.tickPend = false) ∧ (SerReady (slot 3 0) ∧ (slot 3 0).edgePend = false ∧ (slot 3 0).tickPend = false) ∧ { modu with inputs := [.sleep] }.inputs = .sleep :: [] ∧ ({ modu with asleep := true }.asleep = true ∧ modu.linePrev = (modu.lineIn == modu.pol)) ∧ (true = modu.lineIn ∧ false ≠ modu.lineIn) ∧ ({ modu with asleep := true, lineIn := false, linePrev := false }.linePrev = (false == modu.pol)) ∧ ({ sending 3 with lineOe := true, lineOut := true }.lineOe = true → true = { sending 3 with lineOe := true, lineOut := true }.lineOut) := ⟨⟨⟨rfl, rfl⟩, rfl, rfl⟩, ⟨⟨rfl, rfl⟩, rfl, rfl⟩, rfl, by decide, by decide, by decide, by decide⟩

/-- DecodeOfEncodeIsIdentity: an instruction of each shape that `Instr.wf` restricts, and commands at the bounds of
`Instr.fits` under two packings -/
theorem witness_wf : (([.txSend [1], .rxSetlen 1, .mReadlast 1, .mSend true [], .mSend false [1], .cmdDecode [1, 2], .cmdDecode [1, 2, 3, 4], .measCheck block70, .verBuild [1, 2, 3, 4] [5, 6] 7, .verCheck block72, .pageBuild 0 (List.replicate 32 0), .pageCheck page73, .meas block70, .ver block72, .page page73, .getdata ⟨5, 0⟩] : List Instr).all Instr.wf = true) ∧ Config.default.wf = true ∧ ([.getdata ⟨255, 0⟩, .setaddr 0xAA 2047] : List Instr).all (Instr.fits Config.default) = true ∧ ([.getdata ⟨63, 3⟩, .setaddr 0x2A 2047] : List Instr).all (Instr.fits { Config.default with addrW := 6, argW := 2, bcast := 0x2A }) = true := by decide +kernel

/-- InvariantHoldsAtReset: the ends of `clk_cnt`'s range -/
theorem witness_config : Config.default.wf = true ∧ ({ Config.default with role := .masterRole }).wf = true ∧ (Unspecified.named Config.default).clkCnt ≤ Config.default.bitTicks ∧ { Unspecified.named Config.default with clkCnt := 8 }.clkCnt ≤ Config.default.bitTicks := by decide

/-- EveryStepKeepsTheInvariant: a module about to receive a frame -/
theorem witness_inv : State.Inv { modu with inputs := [.request ⟨.line10, [0b0010100001]⟩] } ∧ ∃ t, step { modu with inputs := [.request ⟨.line10, [0b0010100001]⟩] } = .next t := by
  refine ⟨?_, _, rfl⟩
  constructor <;> decide

/-- OtherRolesOperationsAreRefused -/
theorem witness_roles : mast.cfg.role = .masterRole ∧ modu.cfg.role = .moduleRole := ⟨rfl, rfl⟩

end Tests
end Sys2Proof
end

section
/-! Proofs: the decoder reads back what the encoder writes (R80 to R95, R100), part by part: operand words, command
payloads (R87, R200, R201), ten-bit slots (R84, R85), and then every instruction. -/

namespace Sys2Proof

/-! ### Operand words -/

@[simp] theorem field_toNat {n : Nat} (b : BitVec n) (k : BitVec n → Decoded) : field n b.toNat k = k b := by
  simp [field, b.isLt]

@[simp] theorem levelField_toNat (v : Bool) (k : Bool → Decoded) : levelField v.toNat k = k v := by
  cases v <;> rfl

@[simp] theorem words_nil {n : Nat} : words ([] : List (BitVec n)) = [] := rfl

@[simp] theorem words_cons {n : Nat} (b : BitVec n) (bs : List (BitVec n)) :
    words (b :: bs) = b.toNat :: words bs := rfl

@[simp] theorem fields_nil {n : Nat} (k : List (BitVec n) → Decoded) : fields n [] k = k [] := rfl

@[simp] theorem fields_cons_toNat {n : Nat} (b : BitVec n) (xs : List Nat) (k : List (BitVec n) → Decoded) :
    fields n (b.toNat :: xs) k = fields n xs fun bs => k (b :: bs) := by
  rw [fields, field_toNat]

@[simp] theorem fields_words {n : Nat} (bs : List (BitVec n)) (k : List (BitVec n) → Decoded) :
    fields n (words bs) k = k bs := by
  induction bs generalizing k with
  | nil => rfl
  | cons b bs ih => rw [words_cons, fields_cons_toNat, ih]

@[simp] theorem noArg_nil (i : Instr) : noArg i [] = .ok i := rfl

@[simp] theorem oneField_toNat {n : Nat} (k : BitVec n → Instr) (b : BitVec n) :
    oneField n k [b.toNat] = .ok (k b) := by
  simp [oneField]

@[simp] theorem oneLevel_toNat (k : Bool → Instr) (v : Bool) : oneLevel k [v.toNat] = .ok (k v) := by
  simp [oneLevel]

@[simp] theorem oneNat_singleton (k : Nat → Instr) (x : Nat) : oneNat k [x] = .ok (k x) := rfl

@[simp] theorem byteFields_words (k : List Byte → Instr) (bs : List Byte) : byteFields k (words bs) = .ok (k bs) :=
  fields_words bs _

@[simp] theorem commandFields_toNat (k : Addr → Opcode → Data11 → Instr) (a : Addr) (op : Opcode) (g : Data11) :
    commandFields k [a.toNat, op.toNat, g.toNat] = .ok (k a op g) := by
  simp [commandFields]

/-! ### What a configuration constrains (R8, R87) -/

/-- R8's constraints as propositions. -/
theorem Config.wf_iff (c : Config) : c.wf = true ↔
    2 ≤ c.bitTicks ∧ 10 ≤ c.breakBits ∧ 1 ≤ c.breakGap ∧ 4 ≤ c.rxbufLen ∧ 13 ≤ c.txbufLen ∧ 1 ≤ c.turnaround ∧
    67 ≤ c.ringLen ∧ c.addrW + Config.opW + c.argW = Config.kData ∧
    Config.addrMax < 2 ^ c.addrW ∧ c.bcast.toNat < 2 ^ c.addrW ∧ (4 : Opcode) ∉ c.wide ∧ 1 ≤ c.baud := by
  simp only [Config.wf, Bool.and_eq_true, decide_eq_true_eq, Bool.not_eq_true', List.contains_eq_mem,
    decide_eq_false_iff_not, and_assoc]

theorem Config.packs_of_wf {c : Config} (h : c.wf = true) : c.addrW + 3 + c.argW = 11 := by
  obtain ⟨-, -, -, -, -, -, -, hpacks, -⟩ := (Config.wf_iff c).mp h
  exact hpacks

/-- What a configuration carries: the address fits its field, and the argument its own unless it has a second word. -/
theorem Config.carries_iff (c : Config) (a : Addr) (op : Opcode) (g : Data11) :
    c.carries a op g = true ↔ a.toNat < 2 ^ c.addrW ∧ (op ∈ c.wide ∨ g.toNat < 2 ^ c.argW) := by
  simp [Config.carries, Config.fitsAddr]

/-! ### The payload of a command (R87, R200, R201) -/

section Payload
variable {c : Config} {a : Addr} {op : Opcode} {g : Data11}

/-- R87: the packed fields as one number; none of its bits is lost in the 11 of the payload. -/
theorem payloadOf_toNat (hc : c.addrW + 3 + c.argW = 11) (ha : a.toNat < 2 ^ c.addrW) :
    (payloadOf c a op g).toNat = (a.toNat * 8 + op.toNat) * 2 ^ c.argW + g.toNat % 2 ^ c.argW := by
  have hop := op.isLt
  have hg : g.toNat % 2 ^ c.argW < 2 ^ c.argW := Nat.mod_lt _ (by positivity)
  have hhigh : a.toNat * 8 + op.toNat + 1 ≤ 2 ^ c.addrW * 8 := by omega
  have hfit : (a.toNat * 8 + op.toNat) * 2 ^ c.argW + g.toNat % 2 ^ c.argW < 2 ^ 11 :=
    calc (a.toNat * 8 + op.toNat) * 2 ^ c.argW + g.toNat % 2 ^ c.argW
        < (a.toNat * 8 + op.toNat + 1) * 2 ^ c.argW := by rw [Nat.succ_mul]; omega
      _ ≤ 2 ^ c.addrW * 8 * 2 ^ c.argW := Nat.mul_le_mul_right _ hhigh
      _ = 2 ^ (c.addrW + 3 + c.argW) := by rw [pow_add, pow_add]; rfl
      _ = 2 ^ 11 := by rw [hc]
  rw [payloadOf, BitVec.toNat_ofNat, Nat.mod_eq_of_lt ha, Nat.mod_eq_of_lt hfit]

/-- Above the argument field stand the address and the opcode. -/
theorem payloadOf_div_argField (hc : c.addrW + 3 + c.argW = 11) (ha : a.toNat < 2 ^ c.addrW) :
    (payloadOf c a op g).toNat / 2 ^ c.argW = a.toNat * 8 + op.toNat := by
  rw [payloadOf_toNat hc ha, Nat.mul_comm, Nat.mul_add_div (by positivity),
    Nat.div_eq_of_lt (Nat.mod_lt _ (by positivity)), Nat.add_zero]

theorem payloadOp_payloadOf (hc : c.addrW + 3 + c.argW = 11) (ha : a.toNat < 2 ^ c.addrW) :
    payloadOp c (payloadOf c a op g) = op := by
  have hw : 8 - c.addrW = c.argW := by omega
  have hop := op.isLt
  apply BitVec.eq_of_toNat_eq
  rw [payloadOp, hw, payloadOf_div_argField hc ha, BitVec.toNat_ofNat]
  omega

theorem payloadAddr_payloadOf (hc : c.addrW + 3 + c.argW = 11) (ha : a.toNat < 2 ^ c.addrW) :
    payloadAddr c (payloadOf c a op g) = a := by
  have hw : 11 - c.addrW = c.argW + 3 := by omega
  have hop := op.isLt
  have hlt := a.isLt
  apply BitVec.eq_of_toNat_eq
  rw [payloadAddr, hw, pow_add, ← Nat.div_div_eq_div_mul, payloadOf_div_argField hc ha, BitVec.toNat_ofNat]
  omega

/-- R201: an argument of `ARG_W` bits comes back whole. -/
theorem payloadArg_payloadOf (hc : c.addrW + 3 + c.argW = 11) (ha : a.toNat < 2 ^ c.addrW)
    (hg : g.toNat < 2 ^ c.argW) : payloadArg c (payloadOf c a op g) = g := by
  apply BitVec.eq_of_toNat_eq
  rw [payloadArg, payloadOf_toNat hc ha, Nat.mul_add_mod_self_right, Nat.mod_mod, Nat.mod_eq_of_lt hg,
    BitVec.ofNat_toNat, BitVec.setWidth_eq]

/-- R88, R90: a command that the packing carries is read back from its payload, with ARGW where it has a second word. -/
theorem decodeRaw_commandRequest (hc : c.addrW + 3 + c.argW = 11) (h : c.carries a op g = true) :
    decodeRaw c (commandRequest c a op g) = .ok (commandOf a op g) := by
  obtain ⟨ha, hg⟩ := (Config.carries_iff c a op g).mp h
  have hop := payloadOp_payloadOf (g := g) (op := op) hc ha
  have haddr := payloadAddr_payloadOf (g := g) (op := op) hc ha
  by_cases hwide : op ∈ c.wide
  · simp [decodeRaw, commandRequest, decodeCommandWord, hop, haddr, hwide, twoWords]
  · have harg := payloadArg_payloadOf (op := op) hc ha (hg.resolve_left hwide)
    simp [decodeRaw, commandRequest, decodeCommandWord, hop, haddr, harg, hwide, oneWord]

end Payload

/-! ### Ten bits on the line (R84, R85) -/

@[simp] theorem flipBits_flipBits (b : Byte) : flipBits (flipBits b) = b := by
  ext i hi
  simp [flipBits]

/-- R84: the stop bit below the data bits, the start bit, 0, above them. -/
theorem getLsbD_slotOf (b : Byte) (i : Nat) :
    (slotOf b).getLsbD i = if i = 0 then true else (flipBits b).getLsbD (i - 1) := by
  have hslot := BitVec.getLsbD_append (x := 0#1 ++ flipBits b) (y := 1#1) (i := i)
  have hdata := BitVec.getLsbD_append (x := 0#1) (y := flipBits b) (i := i - 1)
  rw [slotOf, hslot, hdata]
  cases i with
  | zero => simp
  | succ j => simpa using fun h => BitVec.lt_of_getLsbD h

theorem slotOf_stopBit (b : Byte) : (slotOf b).getLsbD 0 = true := getLsbD_slotOf b 0

theorem slotOf_startBit (b : Byte) : (slotOf b).getLsbD 9 = false := by
  rw [getLsbD_slotOf, if_neg (by decide), BitVec.getLsbD_of_ge _ _ (by decide)]

theorem slotOf_dataBits (b : Byte) : (slotOf b).extractLsb' 1 8 = flipBits b := by
  ext i hi
  simp [getLsbD_slotOf, hi]

theorem slotOf_ne_zero (b : Byte) : slotOf b ≠ 0 := fun h => by
  have hstop := slotOf_stopBit b
  simp [h] at hstop

@[simp] theorem decodeSlot_slotOf (b : Byte) : decodeSlot (slotOf b) = .ok (.frame10 b) := by
  rw [decodeSlot, if_neg (slotOf_ne_zero b), if_pos ⟨slotOf_startBit b, slotOf_stopBit b⟩, slotOf_dataBits,
    flipBits_flipBits]

/-! ### Every instruction -/

theorem decodeRaw_verBuild (c : Config) (sw hw : List Byte) (sn : BitVec 32) (hsw : sw.length = 4)
    (hhw : hw.length = 2) : decodeRaw c (encode c (.verBuild sw hw sn)) = .ok (.verBuild sw hw sn) := by
  obtain ⟨s0, s1, s2, s3, rfl⟩ := List.length_eq_four.mp hsw
  obtain ⟨h0, h1, rfl⟩ := List.length_eq_two.mp hhw
  simp [encode, decodeRaw]

theorem decodeRaw_mSetmap (c : Config) (m : MMap) : decodeRaw c (encode c (.mSetmap m)) = .ok (.mSetmap m) := by
  cases m <;> rfl

/-- Before the shape checks: each row's operand words are read back, the commands through their payload, VER.BUILD
through the lengths that `Instr.wf` gives its fields. -/
theorem decodeRaw_encode {c : Config} {i : Instr} (hc : c.wf = true) (hwf : i.wf = true) (hfits : i.fits c = true) :
    decodeRaw c (encode c i) = .ok i := by
  have hpacks := Config.packs_of_wf hc
  cases i with
  | getdata | setaddr | shunton | version | reserved4 | addrmode | breakCmd | boot =>
    exact decodeRaw_commandRequest hpacks hfits
  | verBuild sw hw sn =>
    obtain ⟨hsw, hhw⟩ : sw.length = 4 ∧ hw.length = 2 := by simpa [Instr.wf] using hwf
    exact decodeRaw_verBuild c sw hw sn hsw hhw
  | mSetmap m => exact decodeRaw_mSetmap c m
  | break10 => rfl
  | _ => simp [encode, decodeRaw]

/-- The shape checks let a well-formed instruction through. -/
theorem checked_ok {c : Config} {i : Instr} (hwf : i.wf = true) (hfits : i.fits c = true) :
    checked c (.ok i) = .ok i := by
  simp [checked, hwf, hfits]

/-- Settles O55: the words read back as the fields they were written from, and the checks pass. -/
theorem decodeOfEncodeIsIdentity : Obligations.DecodeOfEncodeIsIdentity := by
  intro c i hc hwf hfits
  rw [decode, decodeRaw_encode hc hwf hfits, checked_ok hwf hfits]

end Sys2Proof
end

section
/-! Proofs: a step of the agenda (R13, R72), and the invariant at reset (R8, R49, R290). -/

namespace Sys2Proof
namespace Machine

/-! ### A request at the head of the agenda -/

theorem step_request {s : State} {r : Request} {rest : List Input} (hedge : s.edgePend = false)
    (htick : s.tickPend = false) (hin : s.inputs = .request r :: rest) :
    step s = runRequest r { s with inputs := rest } := by
  simp [step, stepOnce, hedge, htick, hin, runInput]

theorem runRequest_decoded {s : State} {r : Request} {i : Instr} (hdec : decode s.cfg r = .ok i)
    (hrun : s.asleep = false ∨ fromLine i = true) : runRequest r s = exec i s := by
  have hawake : ¬ (s.asleep = true ∧ fromLine i = false) := by
    rintro ⟨hasleep, hhost⟩
    simp [hasleep, hhost] at hrun
  simp only [runRequest, hdec, if_neg hawake]

theorem runRequest_asleep {s : State} {r : Request} {i : Instr} (hdec : decode s.cfg r = .ok i)
    (hasleep : s.asleep = true) (hhost : fromLine i = false) : runRequest r s = .refused .hostAsleep := by
  simp only [runRequest, hdec, if_pos (And.intro hasleep hhost)]

/-- Settles O50: the step is `runRequest` of the request taken, and what decodes has passed the shape checks. -/
theorem stepRunsTheDecodedInstruction : Obligations.StepRunsTheDecodedInstruction := by
  intro s r rest i hedge htick hin hdec
  obtain ⟨hwf, hfits⟩ := decode_wf hdec
  have hstep := step_request hedge htick hin
  refine ⟨hwf, hfits, fun hrun => ?_, fun hasleep hhost => ?_⟩
  · rw [hstep]; exact runRequest_decoded hdec hrun
  · rw [hstep]; exact runRequest_asleep hdec hasleep hhost

/-! ### The state after reset -/

/-- The buffers are empty, their lengths zero, nothing runs and nothing is raised: R8's bounds give the rest. -/
theorem resetWith_inv {c : Config} {u : Unspecified} (hc : c.wf = true) (hclk : u.clkCnt ≤ c.bitTicks) :
    (State.resetWith c u).Inv := by
  obtain ⟨-, -, -, hrxbuf, -, -, hring, -⟩ := (Config.wf_iff c).mp hc
  exact {
    config := hc
    bitcnt := Nat.zero_le _
    count := Nat.zero_le _
    len := ⟨show 1 ≤ 2 by decide, show 2 ≤ c.rxbufLen by omega⟩
    rxbuf := ⟨rfl, rfl, nofun⟩
    txbuf := ⟨rfl, rfl, nofun⟩
    ring := ⟨rfl, rfl, nofun⟩
    clkCnt := hclk
    txLen := Nat.zero_le _
    txTick := Nat.zero_le _
    busy := nofun
    clock := rfl
    exclusive := nofun
    driver := nofun
    edgePend := nofun
    tickPend := nofun
    linePrev := nofun
    sleep := nofun
    phase := nofun
    ringWr := show 0 < c.ringLen by omega
    since := Nat.zero_le _
    txq := Nat.zero_le _
    receiving := fun _ => ⟨rfl, rfl⟩
    addr := Nat.zero_le _ }

/-- Settles O58: the model's own reset is the case of `Config.default`, its clock count 0. -/
theorem invariantHoldsAtReset : Obligations.InvariantHoldsAtReset :=
  ⟨fun _ _ hc hclk => resetWith_inv hc hclk, resetWith_inv (by decide) (Nat.zero_le _)⟩

end Machine
end Sys2Proof
end

section
/-! Proofs: the line, the clock and the shared operations in closed form (R11, R12, R132, R134, R281), and what holds of
a format on the line once it holds of its events (R84, R170). -/

namespace Sys2Proof
namespace Machine

/-! ### Closed forms of the line's operations -/

theorem wakeHost_eq (s : State) :
    wakeHost s = { s with asleep := false, polDetected := s.polDetected && !s.asleep } := by
  cases hs : s.asleep
  · rw [wakeHost_awake hs]
    cases s; simp_all
  · simp [wakeHost_asleep_eq hs]

theorem wakeOnChange_eq (a b : Bool) (s : State) :
    wakeOnChange a b s =
      { s with asleep := s.asleep && b == a, polDetected := s.polDetected && (!s.asleep || b == a) } := by
  by_cases hv : b = a
  · simp [wakeOnChange, hv]
  · simp [wakeOnChange, hv, beq_false_of_ne hv, wakeHost_eq]

/-- R132, R281: all that a level on the line changes. -/
theorem presentLevel_eq (v : Bool) (s : State) :
    presentLevel v s =
      { s with
        lineIn := v
        linePrev := if s.polDetected then s.logical v else s.linePrev
        edgePend := s.edgePend || (s.polDetected && fallingEdge s.linePrev (s.logical v) && s.edgeEnabled)
        asleep := s.asleep && v == s.lineIn
        polDetected := s.polDetected && (!s.asleep || v == s.lineIn) } := by
  cases hp : s.polDetected
  · simp [presentLevel, wakeOnChange_eq, detectEdge_undetected hp, hp]
  · simp [presentLevel, wakeOnChange_eq, detectEdge_detected hp, hp]

@[simp] theorem fallingEdge_self (b : Bool) : fallingEdge b b = false := by simp [fallingEdge]

theorem edgeEnabled_iff {s : State} : s.edgeEnabled = true ↔ s.rxFsm = .waitEdge ∧ s.txBusy = false := by
  simp [State.edgeEnabled]

/-! ### The case of a TICK (R134) -/

theorem tickCase_eq_some_iff {s : State} {c : TickCase} :
    s.tickCase = some c ↔ s.clkRun = true ∧
      (c = .tx ∧ s.txBusy = true ∨
        s.txBusy = false ∧
          (c = .rxStart ∧ s.rxFsm = .waitStart ∨
            c = .rxData ∧ s.rxFsm = .receiving ∧ s.rxBitcnt < 8 ∨
            c = .rxStop ∧ s.rxFsm = .receiving ∧ s.rxBitcnt = 8)) := by
  unfold State.tickCase
  grind

/-! ### The disposal of a slot leaves the rest alone (R137) -/

section Dispose
variable (b : Bool) (s : State)

@[simp] theorem disposeSlot_cfg : (disposeSlot b s).cfg = s.cfg := by unfold disposeSlot; split <;> simp
@[simp] theorem disposeSlot_inputs : (disposeSlot b s).inputs = s.inputs := by unfold disposeSlot; split <;> simp
@[simp] theorem disposeSlot_myAddr : (disposeSlot b s).myAddr = s.myAddr := by unfold disposeSlot; split <;> simp
@[simp] theorem disposeSlot_txBusy : (disposeSlot b s).txBusy = s.txBusy := by unfold disposeSlot; split <;> simp
@[simp] theorem disposeSlot_edgePend : (disposeSlot b s).edgePend = s.edgePend := by unfold disposeSlot; split <;> simp
@[simp] theorem disposeSlot_tickPend : (disposeSlot b s).tickPend = s.tickPend := by unfold disposeSlot; split <;> simp

end Dispose

/-! ### A format on the line is made of its events -/

/-- `P` survives each event that a format on the line is made of: a level, the EDGE handler, a TICK of the state's own
case (log 13), and a CAPTURE (R170). -/
structure KeptOnLine (P : State → Prop) : Prop where
  level : ∀ v s, P s → P (presentLevel v s)
  edge : ∀ s, P s → P (takeEdge s)
  tick : ∀ c v s, s.tickCase = some c → P s → P (runTick c v s)
  capture : ∀ b s, P s → P (captureIfReceiving b s)

namespace KeptOnLine
variable {P : State → Prop} {s : State}

theorem bitTime (hP : KeptOnLine P) (b : Bool) (h : P s) : P (bitTime b s) := by
  have hserved : ∀ u, P u → P (if u.edgePend then takeEdge u else u) := by
    intro u hu
    split
    · exact hP.edge u hu
    · exact hu
  have hticked : ∀ v u, P u → P (match u.tickCase with | none => u | some c => runTick c v u) := by
    intro v u hu
    split
    · exact hu
    · next c hc => exact hP.tick c v u hc hu
  exact hticked _ _ (hserved _ (hP.level (s.lineLevel b) s h))

theorem slotOnLine (hP : KeptOnLine P) (bits : List Bool) (h : P s) : P (slotOnLine bits s) :=
  List.foldlRecOn bits _ (hP.level _ _ h) fun _ hs b _ => hP.bitTime b hs

theorem receiveByte (hP : KeptOnLine P) (b : Byte) (h : P s) : P (receiveByte s b) := by
  unfold Machine.receiveByte
  split
  · split
    · exact h
    · exact hP.slotOnLine _ h
  · exact hP.capture _ _ h

theorem receiveBreak (hP : KeptOnLine P) (h : P s) : P (receiveBreak s) := by
  unfold Machine.receiveBreak
  split
  · split
    · exact h
    · exact hP.slotOnLine _ h
  · exact hP.capture _ _ h

theorem receiveBytes (hP : KeptOnLine P) (bs : List Byte) (h : P s) : P (receiveBytes bs s) :=
  List.foldlRecOn bs _ h fun _ hs b _ => hP.receiveByte b hs

end KeptOnLine

end Machine
end Sys2Proof
end

section
/-! Proofs: what an instruction can do, said once for all of them (R100). -/

namespace Sys2Proof
namespace Machine

/-! ### What an instruction can do -/

/-- The next states an instruction can answer from `s`, by what it does to the block: nothing but an answer and the CRC
accumulator; the part a command word has in the block; an event; a setting; the start or the end of a transmission; a
format in front of the receiver. -/
inductive Effect : Instr → State → State → Prop
  | answer {i s} (c : Word16) (r : Result) : Effect i s { s with crc := c, result := r }
  | setaddr {a g s} (r : Result) : Effect (.setaddr a g) s { claimSlot g s with result := r }
  | addrmode {a s} (r : Result) : Effect (.addrmode a) s { dropAddress s with result := r }
  | frameTaken {s} (n : Nat) (r : Result) (hn : n = 2 ∨ n = 4) : Effect .cmdRecv s { takeFrame n s with result := r }
  | delivered {s} (op : Opcode) (g : Data11) (r : Result) :
      Effect .cmdRecv s { commandEffect op g (takeFrame 2 s) with result := r }
  | polDetect {s} : Effect .polDetect s
      { s with pol := s.lineIn, linePrev := true, polDetected := true, result := .polarity s.lineIn }
  | edge {s} : Effect .edge s (takeEdge s)
  | tick {i s} (c : TickCase) (v : Bool) (hc : s.tickCase = some c) : Effect i s (runTick c v s)
  | setlen {s} (n : Nat) (hn : 1 ≤ n ∧ n ≤ s.cfg.rxbufLen) :
      Effect (.rxSetlen n) s { s with rxLen := n, result := .none }
  | ack {s} : Effect .rxAck s { s with frameComplete := false, result := .none }
  | transmission {i s t} (bs : List Byte) (f : Option Data11)
      (h : startTransmission bs { s with fwdReq := f } = .next t) : Effect i s t
  | sending {i s t} (brk : Bool) (bs : List Byte) (h : startSending brk bs s = .next t) : Effect i s t
  | completedReceiving {s} (hd : s.mDir = .rx) : Effect .txc s (completeSending s)
  | completedSending {s} : Effect .txc s (completeSending (sendQueue (sendBreak s)))
  | setmap {s} (m : MMap) : Effect (.mSetmap m) s { s with mMap := m, result := .none }
  | captured {i s} (b : Byte) : Effect i s (captureIfReceiving b s)
  | receivedBytes {i s} (bs : List Byte) : Effect i s (receiveBytes bs s)
  | receivedBreak {i s} : Effect i s (receiveBreak s)

namespace Effect
variable {i : Instr} {s t : State}

theorem of_ret {c : Word16} {r : Result} (h : ret r { s with crc := c } = .next t) : Effect i s t := by
  obtain rfl := ret_next.mp h
  exact .answer c r

/-- A command word without a part in the block. -/
theorem of_offer {a : Addr} {op : Opcode} {g : Data11} (h : needModule s (offerCommand a op g id s) = .next t) :
    Effect i s t := by
  obtain ⟨-, h⟩ := needModule_next.mp h
  obtain ⟨-, rfl⟩ | ⟨bc, -, rfl⟩ := offerCommand_next.mp h <;> exact .answer s.crc _

theorem of_tickOf {c : TickCase} {v : Bool} (h : tickOf c v s = .next t) : Effect i s t := by
  obtain ⟨-, -, hc, rfl⟩ := tickOf_next.mp h
  exact .tick c v hc

theorem of_onLine {bs : List Byte} (h : onLine s (receiveBytes bs s) = .next t) : Effect i s t := by
  obtain ⟨rfl, -⟩ := onLine_next.mp h
  exact .receivedBytes bs

/-- A block on the line, its length checked first. -/
theorem of_onLineBlock {n : Nat} {bs : List Byte}
    (h : (if bs.length = n then onLine s (receiveBytes bs s) else .refused .badShape) = .next t) : Effect i s t := by
  split at h
  · exact of_onLine h
  · cases h

theorem of_checkBlock {n : Nat} {bs : List Byte} {r : Result} (h : checkBlock n bs r s = .next t) : Effect i s t := by
  obtain ⟨-, ⟨-, rfl⟩ | ⟨-, rfl⟩⟩ := checkBlock_next.mp h <;> exact .answer _ _

theorem of_cmdDecode {bs : List Byte} (h : execCmdDecode bs s = .next t) : Effect i s t := by
  unfold execCmdDecode at h
  split at h
  · split at h
    · exact of_ret h
    · exact of_ret h
    · exact of_ret h
    · cases h
  · cases h

theorem of_cmdRecv (h : execCmdRecv s = .next t) : Effect .cmdRecv s t := by
  obtain ⟨-, h⟩ := needModule_next.mp h
  generalize decodeCommand s.cfg _ = answer at h
  by_cases hcount : s.rxCount < 2
  · rw [if_pos hcount] at h
    exact of_ret h
  by_cases hlen : s.rxLen = 2 ∧ s.frameComplete = false
  · rw [if_neg hcount, if_pos hlen] at h
    exact of_ret h
  rw [if_neg hcount, if_neg hlen] at h
  match answer with
  | some (.command a op g) =>
    obtain ⟨-, rfl⟩ | ⟨bc, -, rfl⟩ := offerCommand_next.mp h
    · exact .frameTaken 2 _ (.inl rfl)
    · exact .delivered _ _ _
  | some .needMore =>
    obtain rfl := ret_next.mp h
    exact .frameTaken 4 _ (.inr rfl)
  | some (.failed _) | none =>
    obtain rfl := ret_next.mp h
    exact .frameTaken 2 _ (.inl rfl)

theorem of_filter {a : Addr} {op : Opcode} {g : Data11} (h : execFilter a op g s = .next t) : Effect i s t := by
  obtain ⟨-, h⟩ := needModule_next.mp h
  split at h <;> exact of_ret h

theorem of_forward {slot : Data11} (h : execForward slot s = .next t) : Effect i s t := by
  obtain ⟨-, -, h⟩ := needSer_next.mp h
  split at h
  · exact .transmission _ none h
  · exact .transmission _ s.fwdReq h

end Effect

/-- Every answer of `exec` is one of the effects. -/
theorem exec_effect {i : Instr} {s t : State} (h : exec i s = .next t) : Effect i s t := by
  cases i with
  | getdata | shunton | version | reserved4 | breakCmd | boot => exact .of_offer h
  | setaddr a g =>
    obtain ⟨-, h⟩ := needModule_next.mp h
    obtain ⟨-, rfl⟩ | ⟨bc, -, rfl⟩ := offerCommand_next.mp h
    · exact .answer s.crc _
    · exact .setaddr _
  | addrmode a =>
    obtain ⟨-, h⟩ := needModule_next.mp h
    obtain ⟨-, rfl⟩ | ⟨bc, -, rfl⟩ := offerCommand_next.mp h
    · exact .answer s.crc _
    · exact .addrmode _
  | argw | cw16 => exact .of_onLine h
  | frame10 b => exact .of_onLine (bs := [b]) h
  | break10 =>
    obtain ⟨rfl, -⟩ := onLine_next.mp h
    exact .receivedBreak
  | meas | ver | page => exact .of_onLineBlock h
  | hamEnc | crcInit | crcUpdate | crcBlock | cmdPack | cmdUnpack | cmdEncode => exact .of_ret h
  | hamDec c =>
    change execHamDec c s = .next t at h
    unfold execHamDec at h
    split at h <;> exact .of_ret h
  | polDetect =>
    obtain ⟨-, h⟩ := needModule_next.mp h
    cases h
    exact .polDetect
  | edge =>
    obtain ⟨-, -, h⟩ := needSer_next.mp h
    cases h
    exact .edge
  | tickRxStart | tickRxData | tickRxStop | tickTx => exact .of_tickOf h
  | rxStatus | txStatus =>
    obtain ⟨-, -, h⟩ := needSer_next.mp h
    exact .of_ret h
  | rxRead =>
    obtain ⟨-, -, h⟩ := needSer_next.mp h
    split at h
    · exact .of_ret h
    · cases h
  | rxSetlen n =>
    obtain ⟨-, -, h⟩ := needSer_next.mp h
    split at h
    · next hn =>
      obtain rfl := ret_next.mp h
      exact .setlen n hn
    · cases h
  | rxAck =>
    obtain ⟨-, -, h⟩ := needSer_next.mp h
    obtain rfl := ret_next.mp h
    exact .ack
  | txSend bs =>
    obtain ⟨-, -, h⟩ := needSer_next.mp h
    exact .transmission bs s.fwdReq h
  | capture b =>
    obtain ⟨-, h⟩ := needMaster_next.mp h
    cases h
    exact .captured b
  | mAvail =>
    obtain ⟨-, h⟩ := needMaster_next.mp h
    exact .of_ret h
  | mReadlast =>
    obtain ⟨-, h⟩ := needMaster_next.mp h
    split at h
    · exact .of_ret h
    · cases h
  | mSend | cmdSend =>
    obtain ⟨-, h⟩ := needMaster_next.mp h
    exact .sending _ _ h
  | txc =>
    obtain ⟨-, h⟩ := needMaster_next.mp h
    split at h
    · next hd =>
      cases h
      exact .completedReceiving hd
    · cases h
      exact .completedSending
  | mSetmap m =>
    obtain ⟨-, h⟩ := needMaster_next.mp h
    split at h
    · cases h
    · obtain rfl := ret_next.mp h
      exact .setmap m
  | cmdDecode => exact .of_cmdDecode h
  | cmdRecv => exact .of_cmdRecv h
  | filter => exact .of_filter h
  | forward => exact .of_forward h
  | measBuild =>
    obtain ⟨-, h⟩ := needModule_next.mp h
    exact .of_ret h
  | verBuild =>
    obtain ⟨-, h⟩ := needModule_next.mp h
    split at h
    · exact .of_ret h
    · cases h
  | pageBuild =>
    obtain ⟨-, h⟩ := needMaster_next.mp h
    split at h
    · exact .of_ret h
    · cases h
  | measCheck | verCheck =>
    obtain ⟨-, h⟩ := needMaster_next.mp h
    exact .of_checkBlock h
  | pageCheck =>
    obtain ⟨-, h⟩ := needModule_next.mp h
    exact .of_checkBlock h

end Machine
end Sys2Proof
end

section
/-! Proofs: every event and every effect of an instruction keeps the invariant (R49, R60, R134, R150, R153, R271, R281),
and so does every step. -/

namespace Sys2Proof
namespace Machine

/-! ### What the invariant says of a running clock and of an idle line -/

section Facts
variable {s : State} (h : s.Inv)
include h

/-- R134, R271: the clock runs only where EDGE is not enabled. -/
theorem State.Inv.edgePend_of_clkRun (hrun : s.clkRun = true) : s.edgePend = false := by
  by_contra hpend
  obtain ⟨hfsm, hbusy⟩ := edgeEnabled_iff.mp (h.edgePend (Bool.eq_true_of_not_eq_false hpend))
  simp [h.clock, hfsm, hbusy] at hrun

theorem State.Inv.turnaround_pos : 1 ≤ s.cfg.turnaround := by
  obtain ⟨-, -, -, -, -, hturn, -⟩ := (Config.wf_iff s.cfg).mp h.config
  exact hturn

theorem State.Inv.rxbufLen_ge : 4 ≤ s.cfg.rxbufLen := by
  obtain ⟨-, -, -, hlen, -⟩ := (Config.wf_iff s.cfg).mp h.config
  exact hlen

theorem State.Inv.txTotal_le : s.txTotal ≤ 10 * s.cfg.txbufLen + s.cfg.turnaround :=
  Nat.add_le_add_right (Nat.mul_le_mul_left 10 h.txLen) _

end Facts

/-! ### The line and the receiver -/

section Events
variable {s : State}

theorem presentLevel_inv (v : Bool) (h : s.Inv) : (presentLevel v s).Inv := by
  rw [presentLevel_eq]
  exact { h with
    edgePend := fun hpend => by
      rcases Bool.or_eq_true_iff.mp hpend with hold | hnew
      · exact h.edgePend hold
      · exact (Bool.and_eq_true_iff.mp hnew).2
    linePrev := fun hpol => if_pos (Bool.and_eq_true_iff.mp hpol).1
    sleep := fun hsleep => by
      obtain ⟨hasleep, hsame⟩ := Bool.and_eq_true_iff.mp hsleep
      obtain ⟨hrole, hedge⟩ := h.sleep hasleep
      have hnofall : s.polDetected = true → fallingEdge s.linePrev (s.logical v) = false := fun hpol => by
        rw [h.linePrev hpol, eq_of_beq hsame, fallingEdge_self]
      refine ⟨hrole, ?_⟩
      cases hpol : s.polDetected
      · simp [hedge]
      · simp [hedge, hnofall hpol] }

theorem takeEdge_inv (h : s.Inv) : (takeEdge s).Inv := by
  cases hen : s.edgeEnabled
  · rw [takeEdge_disabled hen, wakeHost_eq]
    exact { h with
      edgePend := nofun
      linePrev := fun hpol => h.linePrev (Bool.and_eq_true_iff.mp hpol).1
      sleep := nofun }
  · obtain ⟨hfsm, hbusy⟩ := edgeEnabled_iff.mp hen
    rw [takeEdge_enabled hen, wakeHost_eq]
    exact { h with
      clkCnt := Nat.div_le_self _ _
      clock := by simp
      exclusive := fun hb => absurd hb (by simp [hbusy])
      edgePend := nofun
      tickPend := fun _ => rfl
      linePrev := fun hpol => h.linePrev (Bool.and_eq_true_iff.mp hpol).1
      sleep := nofun }

theorem beginTick_inv (h : s.Inv) : (beginTick s).Inv :=
  { h with clkCnt := le_rfl, tickPend := nofun }

theorem startSample_inv (v : Bool) (h : s.Inv) (hrun : s.clkRun = true) (hbusy : s.txBusy = false) :
    (startSample v s).Inv := by
  have hu := presentLevel_inv v (beginTick_inv h)
  have hedge := hu.edgePend_of_clkRun (by simpa using hrun)
  rw [startSample]
  exact { hu with
    bitcnt := Nat.zero_le _
    clock := by simp [hrun]
    exclusive := fun hb => absurd hb (by simp [hbusy])
    edgePend := fun hpend => absurd hpend (by simp [hedge]) }

theorem dataSample_inv (v : Bool) (h : s.Inv) (hcnt : s.rxBitcnt < 8) : (dataSample v s).Inv :=
  { presentLevel_inv v (beginTick_inv h) with bitcnt := hcnt }

/-- R137: the byte lands below the bound, and its cell is written. -/
theorem storeReceived_inv (b : Byte) (h : s.Inv) : (storeReceived b s).Inv := by
  obtain ⟨hwf, hwithin, hcells⟩ := h.rxbuf
  obtain ⟨hlt, heq⟩ | ⟨-, heq⟩ := storeReceived_cases b s
  · rw [heq]
    refine { h with count := hlt, rxbuf := ⟨?_, ?_, ?_⟩ }
    · exact Memory.write_wf _ _ _ hwf
    · exact Memory.write_within _ _ _ _ hlt hwithin
    · intro a ha
      rw [Memory.cell_write]
      split
      · rfl
      · next hne => exact hcells a (by change a < s.rxCount + 1 at ha; omega)
  · rwa [heq]

theorem disposeSlot_inv (b : Bool) (h : s.Inv) : (disposeSlot b s).Inv := by
  obtain ⟨-, -, heq⟩ | ⟨-, heq⟩ := disposeSlot_cases b s
  · obtain ⟨hwf, hwithin, -⟩ := h.rxbuf
    rw [heq]
    exact { h with count := Nat.zero_le _, rxbuf := ⟨hwf, hwithin, nofun⟩ }
  · rw [heq]
    exact storeReceived_inv _ h

theorem stopSample_inv (v : Bool) (h : s.Inv) (hrun : s.clkRun = true) (hbusy : s.txBusy = false) :
    (stopSample v s).Inv := by
  have hu := presentLevel_inv v (beginTick_inv h)
  have hedge := hu.edgePend_of_clkRun (by simpa using hrun)
  rw [stopSample]
  exact { disposeSlot_inv (s.logical v) hu with
    clock := by simp [hbusy]
    exclusive := fun _ => rfl
    edgePend := fun hpend => absurd hpend (by simp [hedge])
    tickPend := fun hpend => absurd hpend (by simp) }

/-! ### The transmitter -/

theorem driveLine_inv (v : Bool) (h : s.Inv) (hbusy : s.txBusy = true) : (driveLine v s).Inv := by
  rw [driveLine, wakeOnChange_eq]
  exact { h with
    driver := fun _ => hbusy
    linePrev := fun _ => rfl
    sleep := fun hsleep => h.sleep (Bool.and_eq_true_iff.mp hsleep).1 }

theorem releaseLine_inv (h : s.Inv) : (releaseLine s).Inv := by
  rw [releaseLine, wakeOnChange_eq]
  exact { h with
    driver := nofun
    linePrev := fun _ => rfl
    sleep := fun hsleep => h.sleep (Bool.and_eq_true_iff.mp hsleep).1 }

/-- R150: a tick before the last. -/
theorem setTxTick_inv {n : Nat} (h : s.Inv) (hn : n < s.txTotal) : State.Inv { s with txTick := n } :=
  { h with
    txTick := hn.le.trans h.txTotal_le
    busy := fun hb => ⟨(h.busy hb).1, hn⟩ }

/-- R150: after the last tick nothing runs and nothing is driven. -/
theorem endTransmission_inv {n : Nat} (h : s.Inv) (hbusy : s.txBusy = true) (htick : s.tickPend = false)
    (hn : n ≤ s.txTotal) : State.Inv { releaseLine s with txBusy := false, clkRun := false, txTick := n } := by
  have hfsm := h.exclusive hbusy
  have hedge := h.edgePend_of_clkRun (by simp [h.clock, hbusy])
  exact { releaseLine_inv h with
    txTick := by simpa using hn.trans h.txTotal_le
    busy := nofun
    clock := by simp [hfsm]
    exclusive := nofun
    driver := fun hoe => absurd hoe (by simp)
    edgePend := fun hpend => absurd hpend (by simp [hedge])
    tickPend := fun hpend => absurd hpend (by simp [htick]) }

theorem transmitTick_inv (h : s.Inv) (hbusy : s.txBusy = true) : (transmitTick s).Inv := by
  have hu := beginTick_inv h
  have hub : (beginTick s).txBusy = true := hbusy
  have hturn := h.turnaround_pos
  have htotal : s.txTotal = 10 * s.txLen + s.cfg.turnaround := rfl
  obtain ⟨-, hleft⟩ := h.busy hbusy
  unfold transmitTick
  obtain ⟨hframe, heq⟩ | ⟨-, hgap, heq⟩ | ⟨-, -, heq⟩ := transmitAction_cases (beginTick s)
  · rw [heq]
    refine setTxTick_inv (driveLine_inv _ hu hub) ?_
    simp only [beginTick_txTick, beginTick_txLen] at hframe
    simp only [State.txTotal, driveLine_txLen, driveLine_cfg, beginTick_txLen, beginTick_cfg]
    omega
  · rw [heq]
    refine setTxTick_inv (driveLine_inv _ hu hub) ?_
    simp only [State.txTotal, beginTick_txTick, beginTick_txLen, beginTick_cfg] at hgap
    simp only [State.txTotal, driveLine_txLen, driveLine_cfg, beginTick_txLen, beginTick_cfg]
    omega
  · rw [heq]
    exact endTransmission_inv hu hub rfl hleft

theorem startTransmission_inv {bs : List Byte} {t : State} (h : s.Inv) (hedge : s.edgePend = false)
    (hstart : startTransmission bs s = .next t) : t.Inv := by
  obtain ⟨-, hfsm, hpos, hlen, rfl⟩ := startTransmission_next.mp hstart
  obtain ⟨hwf, hwithin, -⟩ := h.txbuf
  have hturn := h.turnaround_pos
  exact { h with
    txbuf := by
      refine ⟨Memory.writeList_wf _ _ _ hwf, Memory.writeList_within _ _ _ _ ?_ hwithin, fun a ha => ?_⟩
      · rwa [Nat.zero_add]
      change a < bs.length at ha
      rw [Memory.cell_writeList, if_pos (by omega)]
      simp [ha]
    clkCnt := le_rfl
    txLen := hlen
    txTick := Nat.zero_le _
    busy := fun _ => ⟨hpos, show 0 < 10 * bs.length + s.cfg.turnaround by omega⟩
    clock := by simp
    exclusive := fun _ => hfsm
    driver := fun _ => rfl
    edgePend := fun hpend => absurd hpend (by simp [hedge])
    tickPend := fun _ => rfl }

theorem runTick_inv {c : TickCase} (v : Bool) (h : s.Inv) (hc : s.tickCase = some c) : (runTick c v s).Inv := by
  obtain ⟨hrun, ⟨rfl, hbusy⟩ | ⟨hbusy, ⟨rfl, -⟩ | ⟨rfl, -, hcnt⟩ | ⟨rfl, -⟩⟩⟩ := tickCase_eq_some_iff.mp hc
  · exact transmitTick_inv h hbusy
  · exact startSample_inv v h hrun hbusy
  · exact dataSample_inv v h hcnt
  · exact stopSample_inv v h hrun hbusy

theorem timerCount_inv (h : s.Inv) : (timerCount s).Inv := by
  unfold timerCount
  split
  · next hrun => exact { h with clkCnt := le_trans (Nat.sub_le _ _) h.clkCnt, tickPend := fun _ => hrun }
  · exact h

/-! ### The master -/

/-- R171: seen from behind the new byte, the ring's newest bytes are that byte and the newest before it. -/
theorem newest_offset_zero {w l : Nat} (hw : w < l) : ((w + 1) % l + l - 1) % l = w := by
  rcases Nat.lt_or_eq_of_le (Nat.succ_le_of_lt hw) with hlt | heq
  · rw [Nat.mod_eq_of_lt hlt, show w + 1 + l - 1 = w + l by omega, Nat.add_mod_right, Nat.mod_eq_of_lt hw]
  · rw [show w + 1 = l from heq, Nat.mod_self, show 0 + l - 1 = w by omega, Nat.mod_eq_of_lt hw]

theorem newest_offset_succ {w l k : Nat} (hw : w < l) (hk : k + 1 < l) :
    ((w + 1) % l + l - 1 - (k + 1)) % l = (w + l - 1 - k) % l := by
  rcases Nat.lt_or_eq_of_le (Nat.succ_le_of_lt hw) with hlt | heq
  · rw [Nat.mod_eq_of_lt hlt]
    congr 1
    omega
  · rw [show w + 1 = l from heq, Nat.mod_self, show w + l - 1 - k = 0 + l - 1 - (k + 1) + l by omega,
      Nat.add_mod_right]

theorem captureByte_inv (b : Byte) (h : s.Inv) : (captureByte b s).Inv := by
  obtain ⟨hwf, hwithin, hcells⟩ := h.ring
  have hwr := h.ringWr
  exact { h with
    ring := by
      refine ⟨Memory.write_wf _ _ _ hwf, Memory.write_within _ _ _ _ hwr hwithin, fun k hk => ?_⟩
      simp only [captureByte_mRxSince] at hk
      simp only [captureByte_ring, captureByte_ringWr, captureByte_cfg, Memory.cell_write]
      cases k with
      | zero => simp [newest_offset_zero hwr]
      | succ k =>
        rw [newest_offset_succ hwr (by omega)]
        split
        · rfl
        · exact hcells k (by omega)
    ringWr := Nat.mod_lt _ (by omega)
    since := Nat.min_le_right _ _ }

theorem captureIfReceiving_inv (b : Byte) (h : s.Inv) : (captureIfReceiving b s).Inv := by
  unfold captureIfReceiving
  split
  · exact captureByte_inv b h
  · exact h

theorem completeSending_inv (h : s.Inv) (hq : s.mTxq = []) (hbrk : s.mBrk = false) : (completeSending s).Inv := by
  obtain ⟨hwf, hwithin, -⟩ := h.ring
  exact { h with
    ring := ⟨hwf, hwithin, nofun⟩
    phase := fun _ => rfl
    since := Nat.zero_le _
    receiving := fun _ => ⟨hq, hbrk⟩ }

theorem sendBreak_inv (h : s.Inv) : (sendBreak s).Inv := by
  unfold sendBreak
  split
  · exact { h with phase := nofun, receiving := fun hd => ⟨(h.receiving hd).1, rfl⟩ }
  · exact h

theorem sendBreak_mBrk (s : State) : (sendBreak s).mBrk = false := by
  unfold sendBreak
  split
  · rfl
  · next hbrk => simpa using hbrk

theorem sendQueue_inv (h : s.Inv) : (sendQueue s).Inv :=
  { h with txq := Nat.zero_le _, receiving := fun hd => ⟨rfl, (h.receiving hd).2⟩ }

theorem agentMove_inv (h : s.Inv) : (agentMove s).Inv := by
  unfold agentMove
  split
  · exact h
  · next hdir =>
    split
    · exact sendBreak_inv h
    · next hbrk =>
      split
      · next b q hq =>
        have hlen := h.txq
        rw [hq, List.length_cons] at hlen
        exact { h with
          phase := fun hb => absurd hb hbrk
          txq := show q.length ≤ s.cfg.ringLen by omega
          receiving := fun hd => absurd (hdir.symm.trans hd) nofun }
      · next hq => exact completeSending_inv h hq (by simpa using hbrk)

theorem startSending_inv {brk : Bool} {bs : List Byte} {t : State} (h : s.Inv)
    (hstart : startSending brk bs s = .next t) : t.Inv := by
  obtain ⟨-, -, hlen, rfl⟩ := startSending_next.mp hstart
  exact { h with phase := fun _ => rfl, txq := hlen, receiving := nofun }

/-! ### The commands -/

/-- R43, R212: a claimed address is a slot of at most 63. -/
theorem claimSlot_inv (g : Data11) (h : s.Inv) : (claimSlot g s).Inv := by
  obtain ⟨-, -, hle, heq⟩ | ⟨-, heq⟩ := claimSlot_cases g s
  · rw [heq]
    exact { h with
      addr := by
        simp only [BitVec.toNat_setWidth]
        exact le_trans (Nat.mod_le _ _) hle }
  · rwa [heq]

theorem dropAddress_inv (h : s.Inv) : (dropAddress s).Inv := { h with addr := Nat.zero_le _ }

theorem commandEffect_inv (op : Opcode) (g : Data11) (h : s.Inv) : (commandEffect op g s).Inv := by
  unfold commandEffect
  split
  · exact claimSlot_inv g h
  split
  · exact dropAddress_inv h
  · exact h

theorem takeFrame_inv {n : Nat} (h : s.Inv) (hn : n = 2 ∨ n = 4) : (takeFrame n s).Inv :=
  { h with
    len := by
      have hlen := h.rxbufLen_ge
      simp only [takeFrame_rxLen, takeFrame_cfg]
      omega }

end Events

/-! ### Every instruction, every input, every step -/

theorem inv_keptOnLine : KeptOnLine State.Inv where
  level v _ h := presentLevel_inv v h
  edge _ h := takeEdge_inv h
  tick _ v _ hc h := runTick_inv v h hc
  capture b _ h := captureIfReceiving_inv b h

/-- With no EDGE raised: TX.SEND would leave a raised one pending where it is not enabled. -/
theorem Effect.inv {i : Instr} {s t : State} (he : Effect i s t) (h : s.Inv) (hedge : s.edgePend = false) : t.Inv := by
  cases he with
  | answer c r => exact { h with }
  | setaddr => exact { claimSlot_inv _ h with }
  | addrmode => exact { dropAddress_inv h with }
  | frameTaken n _ hn => exact { takeFrame_inv h hn with }
  | delivered op g => exact { commandEffect_inv op g (takeFrame_inv h (.inl rfl)) with }
  | polDetect => exact { h with linePrev := fun _ => (beq_self_eq_true s.lineIn).symm }
  | edge => exact takeEdge_inv h
  | tick c v hc => exact runTick_inv v h hc
  | setlen n hn => exact { h with len := hn }
  | ack => exact { h with }
  | transmission bs f hstart =>
    have hf : State.Inv { s with fwdReq := f } := { h with }
    exact startTransmission_inv hf hedge hstart
  | sending brk bs hstart => exact startSending_inv h hstart
  | completedReceiving hd =>
    obtain ⟨hq, hbrk⟩ := h.receiving hd
    exact completeSending_inv h hq hbrk
  | completedSending => exact completeSending_inv (sendQueue_inv (sendBreak_inv h)) rfl (sendBreak_mBrk s)
  | setmap => exact { h with }
  | captured b => exact captureIfReceiving_inv b h
  | receivedBytes bs => exact inv_keptOnLine.receiveBytes bs h
  | receivedBreak => exact inv_keptOnLine.receiveBreak h

theorem runInput_inv {i : Input} {s t : State} (h : s.Inv) (hedge : s.edgePend = false)
    (hrun : runInput i s = .next t) : t.Inv := by
  cases i with
  | request r =>
    obtain ⟨i, -, -, hexec⟩ := runRequest_next.mp hrun
    exact (exec_effect hexec).inv h hedge
  | line v =>
    obtain ⟨-, rfl⟩ := lineInput_next.mp hrun
    exact presentLevel_inv v h
  | count =>
    cases hrun
    exact timerCount_inv h
  | shift =>
    cases hrun
    exact agentMove_inv h
  | rest d =>
    obtain ⟨-, rfl⟩ := agentRest_next.mp hrun
    exact { h with }
  | sleep =>
    obtain ⟨hrole, rfl⟩ := hostSleeps_next.mp hrun
    exact { h with sleep := fun _ => ⟨hrole, hedge⟩ }

/-- Settles O59, by what the step is: a raised EDGE, a raised TICK, nothing, or the next input. -/
theorem everyStepKeepsTheInvariant : Obligations.EveryStepKeepsTheInvariant := by
  intro s t h hstep
  obtain ⟨-, rfl⟩ | ⟨-, -, -, c, hc, rfl⟩ | ⟨-, -, -, rfl⟩ | ⟨hedge, -, i, rest, -, hrun⟩ := stepOnce_next hstep
  · exact takeEdge_inv h
  · exact runTick_inv _ h hc
  · exact h
  · have hrest : State.Inv { s with inputs := rest } := { h with }
    exact runInput_inv hrest hedge hrun

end Machine
end Sys2Proof
end

section
/-! Proofs: which instructions write `my_addr` (R43, R20), what a transmitting module receives (R34, R148), the counts of
the bit clock (R31, R271), and the operations of the other role (R100). -/

namespace Sys2Proof
namespace Machine
open Sys2Proof.SpecForm

/-! ### Who writes `my_addr` (R43) -/

/-- The configuration, the agenda and `my_addr` are those of `s`. -/
structure KeepsAddress (s t : State) : Prop where
  cfg : t.cfg = s.cfg
  inputs : t.inputs = s.inputs
  myAddr : t.myAddr = s.myAddr

theorem KeepsAddress.trans {s t u : State} (h : KeepsAddress s t) (h' : KeepsAddress t u) : KeepsAddress s u :=
  ⟨h'.cfg.trans h.cfg, h'.inputs.trans h.inputs, h'.myAddr.trans h.myAddr⟩

theorem transmitAction_keepsAddress (s : State) : KeepsAddress s (transmitAction s) := by
  obtain ⟨-, heq⟩ | ⟨-, -, heq⟩ | ⟨-, -, heq⟩ := transmitAction_cases s <;> rw [heq] <;> constructor <;> simp

theorem runTick_keepsAddress (c : TickCase) (v : Bool) (s : State) : KeepsAddress s (runTick c v s) := by
  cases c with
  | rxStart | rxData | rxStop => constructor <;> simp [runTick, startSample, dataSample, stopSample]
  | tx =>
    obtain ⟨hcfg, hinputs, haddr⟩ := transmitAction_keepsAddress (beginTick s)
    exact ⟨hcfg, hinputs, haddr⟩

theorem captureIfReceiving_keepsAddress (b : Byte) (s : State) : KeepsAddress s (captureIfReceiving b s) := by
  unfold captureIfReceiving
  split <;> exact ⟨rfl, rfl, rfl⟩

theorem keepsAddress_keptOnLine (s : State) : KeptOnLine (KeepsAddress s) where
  level v _ h := h.trans ⟨by simp, by simp, by simp⟩
  edge _ h := h.trans ⟨by simp, by simp, by simp⟩
  tick c v u _ h := h.trans (runTick_keepsAddress c v u)
  capture b u h := h.trans (captureIfReceiving_keepsAddress b u)

/-- SETADDR and ADDRMODE, by name or delivered by CMD.RECV. -/
def WritesAddress (i : Instr) : Prop := (∃ a g, i = .setaddr a g) ∨ (∃ a, i = .addrmode a) ∨ i = .cmdRecv

theorem commandEffect_frame (op : Opcode) (g : Data11) (s : State) :
    (commandEffect op g s).cfg = s.cfg ∧ (commandEffect op g s).inputs = s.inputs := by
  unfold commandEffect
  split
  · simp
  split <;> simp

theorem Effect.frame {i : Instr} {s t : State} (h : Effect i s t) :
    KeepsAddress s t ∨ t.cfg = s.cfg ∧ t.inputs = s.inputs ∧ WritesAddress i := by
  cases h with
  | answer | frameTaken | polDetect | setlen | ack | completedReceiving | setmap => exact .inl ⟨rfl, rfl, rfl⟩
  | setaddr => exact .inr ⟨by simp, by simp, .inl ⟨_, _, rfl⟩⟩
  | addrmode => exact .inr ⟨rfl, rfl, .inr (.inl ⟨_, rfl⟩)⟩
  | delivered op g =>
    obtain ⟨hcfg, hinputs⟩ := commandEffect_frame op g (takeFrame 2 s)
    exact .inr ⟨hcfg, hinputs, .inr (.inr rfl)⟩
  | edge => exact .inl ⟨by simp, by simp, by simp⟩
  | tick c v => exact .inl (runTick_keepsAddress c v s)
  | transmission bs f hstart =>
    obtain ⟨-, -, -, -, rfl⟩ := startTransmission_next.mp hstart
    exact .inl ⟨rfl, rfl, rfl⟩
  | sending brk bs hstart =>
    obtain ⟨-, -, -, rfl⟩ := startSending_next.mp hstart
    exact .inl ⟨rfl, rfl, rfl⟩
  | completedSending => exact .inl ⟨by simp [sendQueue], by simp [sendQueue], by simp [sendQueue]⟩
  | captured b => exact .inl (captureIfReceiving_keepsAddress b s)
  | receivedBytes bs => exact .inl ((keepsAddress_keptOnLine s).receiveBytes bs ⟨rfl, rfl, rfl⟩)
  | receivedBreak => exact .inl ((keepsAddress_keptOnLine s).receiveBreak ⟨rfl, rfl, rfl⟩)

/-- Settles O26, from what an instruction can do. -/
theorem onlyAddressCommandsWriteMyAddr : Obligations.OnlyAddressCommandsWriteMyAddr := by
  intro i s t h
  obtain ⟨hcfg, hinputs, haddr⟩ | ⟨hcfg, hinputs, hwrites⟩ := (exec_effect h).frame
  · exact ⟨hcfg, hinputs, fun hne => absurd haddr hne⟩
  · exact ⟨hcfg, hinputs, fun _ => hwrites⟩

/-! ### Formats in front of a receiver (R34, R148) -/

theorem exec_lineFormat {i : Instr} {bs : List Byte} {s : State} (hwf : i.wf = true)
    (hbs : lineBytes s.cfg.wordOrder i = some bs) : exec i s = onLine s (receiveBytes bs s) := by
  unfold lineBytes at hbs
  split at hbs <;> cases hbs
  case h_1 | h_2 | h_3 => rfl
  case h_4 | h_5 | h_6 => exact if_pos (eq_of_beq hwf)

theorem onLine_usable {s : State} (hready : SerReady s) (hawake : s.asleep = false) (k : State) :
    onLine s k = .next k :=
  onLine_next.mpr ⟨rfl, fun _ => ⟨hready.2, hawake⟩⟩

theorem receiveByte_transmitting {s : State} (hrole : s.cfg.role = .moduleRole) (hbusy : s.txBusy = true) (b : Byte) :
    receiveByte s b = s := by
  simp [receiveByte, hrole, hbusy]

theorem receiveBytes_transmitting {s : State} (hrole : s.cfg.role = .moduleRole) (hbusy : s.txBusy = true)
    (bs : List Byte) : receiveBytes bs s = s := by
  unfold receiveBytes
  induction bs with
  | nil => rfl
  | cons b bs ih => rw [List.foldl_cons, receiveByte_transmitting hrole hbusy, ih]

theorem receiveBreak_transmitting {s : State} (hrole : s.cfg.role = .moduleRole) (hbusy : s.txBusy = true) :
    receiveBreak s = s := by
  simp [receiveBreak, hrole, hbusy]

/-- Settles O35: byte by byte the receiver of a transmitting module leaves the state alone. -/
theorem nothingIsReceivedWhileTransmitting : Obligations.NothingIsReceivedWhileTransmitting := by
  intro s hready hawake hbusy
  have hrole : s.cfg.role = .moduleRole := hready.1
  constructor
  · intro i bs hwf hbs
    rw [exec_lineFormat hwf hbs, onLine_usable hready hawake, receiveBytes_transmitting hrole hbusy]
  · calc exec .break10 s = onLine s (receiveBreak s) := rfl
      _ = .next s := by rw [onLine_usable hready hawake, receiveBreak_transmitting hrole hbusy]

/-! ### The bit clock (R31, R271) -/

theorem step_count {s : State} {rest : List Input} (hrun : s.clkRun = true) (hedge : s.edgePend = false)
    (htick : s.tickPend = false) (hin : s.inputs = .count :: rest) :
    step s = .next { s with clkCnt := s.clkCnt - 1, tickPend := decide (s.clkCnt ≤ 1), inputs := rest } := by
  simp [step, stepOnce, hedge, htick, hin, runInput, timerCount, hrun]

theorem run_succ_last {M : Host.Core} {k : Nat} {s t u : M.State} (hrun : M.run k s = .next t)
    (hstep : M.step t = .next u) : M.run (k + 1) s = .next u := by
  induction k generalizing s with
  | zero =>
    cases hrun
    simp [Host.Core.run, hstep]
  | succ k ih =>
    rw [Host.Core.run] at hrun ⊢
    split at hrun
    · next s' hfirst => simpa only [hfirst] using ih hrun
    · cases hrun
    · cases hrun

/-- Fewer counts than the clock has left raise nothing. -/
theorem run_counts (k : Nat) {s : State} {rest : List Input} (hrun : s.clkRun = true) (hedge : s.edgePend = false)
    (htick : s.tickPend = false) (hin : s.inputs = List.replicate k .count ++ rest) (hk : k < s.clkCnt) :
    Host.Core.run core k s = .next { s with clkCnt := s.clkCnt - k, inputs := rest } := by
  induction k generalizing rest with
  | zero => simp [Host.Core.run, ← show s.inputs = rest from hin]
  | succ k ih =>
    have hbefore := ih (rest := .count :: rest) (by rw [hin, List.replicate_succ', List.append_assoc]; rfl) (by omega)
    have hlast := step_count (s := { s with clkCnt := s.clkCnt - k, inputs := .count :: rest }) hrun hedge htick rfl
    have hquiet : ¬ s.clkCnt - k ≤ 1 := by omega
    rw [run_succ_last (M := core) hbefore hlast]
    simp [hquiet, htick, Nat.sub_sub]

/-- Settles O52: counts fewer than `clk_cnt` by induction, and the one after them uses it up. -/
theorem clockRaisesTickWhenItsCountIsUsedUp : Obligations.ClockRaisesTickWhenItsCountIsUsedUp := by
  intro s k rest hrun hedge htick hin
  refine ⟨run_counts k hrun hedge htick hin, fun hpos hk => ?_⟩
  obtain ⟨n, rfl⟩ := Nat.exists_eq_add_of_le' hpos
  have hin' : s.inputs = List.replicate n .count ++ .count :: rest := by
    rw [hin, List.replicate_succ', List.append_assoc]; rfl
  have hbefore := run_counts n hrun hedge htick hin' (by omega)
  have hlast := step_count (s := { s with clkCnt := s.clkCnt - n, inputs := .count :: rest }) hrun hedge htick rfl
  have hleft : s.clkCnt - n = 1 := by omega
  rw [run_succ_last (M := core) hbefore hlast]
  simp [hleft]

/-! ### The other role (R20, R100) -/

theorem needModule_refused {s : State} (hrole : s.cfg.role = .masterRole) (k : Answer) :
    needModule s k = .refused .notInRole := by
  simp [needModule, hrole]

theorem needMaster_refused {s : State} (hrole : s.cfg.role = .moduleRole) (k : Answer) :
    needMaster s k = .refused .notInRole := by
  simp [needMaster, hrole]

/-- Settles O60: every operation of a role asks for that role before anything else. -/
theorem otherRolesOperationsAreRefused : Obligations.OtherRolesOperationsAreRefused := by
  intro s
  constructor
  · intro hrole a op g v n bs sw hw sn v0 v1 v2 v3 v4
    simp only [List.forall_mem_cons, List.not_mem_nil, false_implies, implies_true, and_true]
    and_intros <;> exact needModule_refused hrole _
  · intro hrole a op g b n brk bs m ws
    simp only [List.forall_mem_cons, List.not_mem_nil, false_implies, implies_true, and_true]
    and_intros <;> exact needMaster_refused hrole _

end Machine
end Sys2Proof
end

section
/-! Proofs: the master's ring as a queue of the bytes captured last (R171, R172, R173), and the reads (R70). -/

namespace Sys2Proof
namespace Machine
open Sys2Proof.SpecForm

/-! ### The operations of the own role (R100, R265) -/

theorem needMaster_own {s : State} (hrole : s.cfg.role = .masterRole) (k : Answer) : needMaster s k = k :=
  if_pos hrole

theorem needSer_ready {s : State} (hready : SerReady s) (k : Answer) : needSer s k = k := by
  obtain ⟨hrole, hpol⟩ := hready
  simp [needSer, needModule, hrole, hpol]

theorem exec_capture {s : State} (hrole : s.cfg.role = .masterRole) (hdir : s.mDir = .rx) (b : Byte) :
    exec (.capture b) s = .next (captureByte b s) :=
  calc exec (.capture b) s = .next (captureIfReceiving b s) := needMaster_own hrole _
    _ = .next (captureByte b s) := by simp [captureIfReceiving, hdir]

theorem exec_mAvail {s : State} (hrole : s.cfg.role = .masterRole) :
    exec .mAvail s = .next { s with result := .avail s.mRxSince } :=
  needMaster_own hrole _

theorem exec_mReadlast {s : State} {n : Nat} (hrole : s.cfg.role = .masterRole) (hn : 1 ≤ n ∧ n ≤ s.cfg.ringLen) :
    exec (.mReadlast n) s = .next { s with result := .bytes (s.newest n) } :=
  (needMaster_own hrole _).trans (if_pos hn)

theorem exec_mReadlast_refused {s : State} {n : Nat} (hrole : s.cfg.role = .masterRole)
    (hn : n = 0 ∨ s.cfg.ringLen < n) : exec (.mReadlast n) s = .refused .badCount :=
  (needMaster_own hrole _).trans (if_neg (by omega))

theorem exec_rxStatus {s : State} (hready : SerReady s) :
    exec .rxStatus s = .next { s with result := .rxStatus s.rxCount s.frameComplete } :=
  needSer_ready hready _

theorem exec_txStatus {s : State} (hready : SerReady s) :
    exec .txStatus s = .next { s with result := .txStatus s.txBusy } :=
  needSer_ready hready _

theorem exec_rxRead {s : State} {i : Nat} (hready : SerReady s) (hi : i < s.cfg.rxbufLen) :
    exec (.rxRead i) s = .next { s with result := .byte (s.rxByte i) } :=
  (needSer_ready hready _).trans (if_pos hi)

theorem exec_rxRead_refused {s : State} {i : Nat} (hready : SerReady s) (hi : s.cfg.rxbufLen ≤ i) :
    exec (.rxRead i) s = .refused .badOffset :=
  (needSer_ready hready _).trans (if_neg (by omega))

theorem rxByte_received {s : State} {i : Nat} (hi : i < s.rxCount) : s.rxByte i = s.readByte .rxbuf i := if_pos hi

/-! ### The newest bytes of the ring (R172) -/

@[simp] theorem newest_length (s : State) (n : Nat) : (s.newest n).length = n := by simp [State.newest]

@[simp] theorem newest_zero (s : State) : s.newest 0 = [] := rfl

theorem newest_getD {s : State} {n i : Nat} (hi : i < n) :
    (s.newest n).getD i 0 = s.readByte .ring ((s.ringWr + s.cfg.ringLen - n + i) % s.cfg.ringLen) := by
  simp [State.newest, List.getD_eq_getElem?_getD, hi]

theorem readByte_captureByte (b : Byte) (s : State) (a : Nat) :
    (captureByte b s).readByte .ring a = if a = s.ringWr then b else s.readByte .ring a := by
  by_cases ha : a = s.ringWr <;> simp [State.readByte, State.buffer, Memory.cell_write, ha]

/-- The write pointer is not among the places of the ring's newest `l - 1` bytes. -/
theorem older_offset_ne {w l k : Nat} (hw : w < l) (hk : k + 1 < l) : (w + l - 1 - k) % l ≠ w := by
  rcases Nat.lt_or_ge k w with hlt | hge
  · rw [show w + l - 1 - k = w - 1 - k + l by omega, Nat.add_mod_right, Nat.mod_eq_of_lt (by omega)]
    omega
  · rw [Nat.mod_eq_of_lt (by omega)]
    omega

/-- R171, R172: a capture appends to the newest bytes, as long as the ring holds one more. -/
theorem newest_captureByte {s : State} {n : Nat} (hw : s.ringWr < s.cfg.ringLen) (hn : n < s.cfg.ringLen) (b : Byte) :
    (captureByte b s).newest (n + 1) = s.newest n ++ [b] := by
  have hlast : ((s.ringWr + 1) % s.cfg.ringLen + s.cfg.ringLen - (n + 1) + n) % s.cfg.ringLen = s.ringWr := by
    rw [show (s.ringWr + 1) % s.cfg.ringLen + s.cfg.ringLen - (n + 1) + n =
      (s.ringWr + 1) % s.cfg.ringLen + s.cfg.ringLen - 1 by omega, newest_offset_zero hw]
  have holder : ∀ i ∈ List.range n, (captureByte b s).readByte .ring
        (((s.ringWr + 1) % s.cfg.ringLen + s.cfg.ringLen - (n + 1) + i) % s.cfg.ringLen) =
      s.readByte .ring ((s.ringWr + s.cfg.ringLen - n + i) % s.cfg.ringLen) := by
    intro i hi
    have hi : i < n := List.mem_range.mp hi
    have hk : n - 1 - i + 1 < s.cfg.ringLen := by omega
    rw [show (s.ringWr + 1) % s.cfg.ringLen + s.cfg.ringLen - (n + 1) + i =
        (s.ringWr + 1) % s.cfg.ringLen + s.cfg.ringLen - 1 - (n - 1 - i + 1) by omega,
      show s.ringWr + s.cfg.ringLen - n + i = s.ringWr + s.cfg.ringLen - 1 - (n - 1 - i) by omega,
      newest_offset_succ hw hk, readByte_captureByte, if_neg (older_offset_ne hw hk)]
  calc (captureByte b s).newest (n + 1)
      = (List.range n).map (fun i => (captureByte b s).readByte .ring
          (((s.ringWr + 1) % s.cfg.ringLen + s.cfg.ringLen - (n + 1) + i) % s.cfg.ringLen)) ++
        [(captureByte b s).readByte .ring
          (((s.ringWr + 1) % s.cfg.ringLen + s.cfg.ringLen - (n + 1) + n) % s.cfg.ringLen)] := by
        simp [State.newest, List.range_succ]
    _ = s.newest n ++ [b] := by rw [List.map_congr_left holder, hlast, readByte_captureByte, if_pos rfl]; rfl

/-! ### A list of captures -/

/-- R171: the bytes of a list into the ring, the first one first. -/
def captureBytes (bs : List Byte) (s : State) : State := bs.foldl (fun s b => captureByte b s) s

@[simp] theorem captureBytes_nil (s : State) : captureBytes [] s = s := rfl

@[simp] theorem captureBytes_cons (b : Byte) (bs : List Byte) (s : State) :
    captureBytes (b :: bs) s = captureBytes bs (captureByte b s) := rfl

@[simp] theorem captureBytes_cfg (bs : List Byte) (s : State) : (captureBytes bs s).cfg = s.cfg := by
  induction bs generalizing s with
  | nil => rfl
  | cons b bs ih => rw [captureBytes_cons, ih, captureByte_cfg]

/-- CAPTURE of each byte, at a master that receives. -/
theorem execAll_capture {s : State} (hrole : s.cfg.role = .masterRole) (hdir : s.mDir = .rx) (bs : List Byte) :
    execAll (bs.map .capture) s = .next (captureBytes bs s) := by
  induction bs generalizing s with
  | nil => rfl
  | cons b bs ih =>
    simp only [List.map_cons, execAll, exec_capture hrole hdir, captureBytes_cons]
    exact ih hrole hdir

theorem newest_captureBytes {s : State} {n : Nat} {bs : List Byte} (hw : s.ringWr < s.cfg.ringLen)
    (hn : n + bs.length ≤ s.cfg.ringLen) : (captureBytes bs s).newest (n + bs.length) = s.newest n ++ bs := by
  induction bs generalizing s n with
  | nil => simp
  | cons b bs ih =>
    rw [List.length_cons] at hn ⊢
    have hw' : (captureByte b s).ringWr < (captureByte b s).cfg.ringLen := Nat.mod_lt _ (by omega)
    have hrest := ih (n := n + 1) hw' (show n + 1 + bs.length ≤ s.cfg.ringLen by omega)
    rw [captureBytes_cons, Nat.add_comm bs.length 1, ← Nat.add_assoc, hrest, newest_captureByte hw (by omega),
      List.append_assoc, List.singleton_append]

/-- R171, R173: stated for at least one byte; outside the invariant the count of `s` itself may be above RING_LEN. -/
theorem mRxSince_captureBytes (b : Byte) (bs : List Byte) (s : State) :
    (captureBytes (b :: bs) s).mRxSince = min (s.mRxSince + (b :: bs).length) s.cfg.ringLen := by
  induction bs generalizing b s with
  | nil => rfl
  | cons b' bs ih =>
    rw [captureBytes_cons, ih, captureByte_mRxSince, captureByte_cfg]
    simp only [List.length_cons]
    omega

/-- Settles O39: the captures, one by one, append to the newest 0 bytes. -/
theorem readlastReturnsTheNewestCaptures : Obligations.ReadlastReturnsTheNewestCaptures := by
  intro s bs hrole hdir hw hpos hlen
  have hnewest : (captureBytes bs s).newest bs.length = bs := by
    simpa using newest_captureBytes (n := 0) hw (by omega)
  have hsince : (captureBytes bs s).mRxSince = min (s.mRxSince + bs.length) s.cfg.ringLen := by
    cases bs with
    | nil => cases hpos
    | cons b bs => exact mRxSince_captureBytes b bs s
  have hrole' : (captureBytes bs s).cfg.role = .masterRole := by rwa [captureBytes_cfg]
  refine ⟨captureBytes bs s, execAll_capture hrole hdir bs, ?_, ?_⟩
  · rw [exec_mReadlast hrole' ⟨hpos, by rwa [captureBytes_cfg]⟩, hnewest]
  · rw [exec_mAvail hrole', ← hsince]

/-- Settles O38, read by read. -/
theorem readsHaveNoSideEffect : Obligations.ReadsHaveNoSideEffect := by
  intro s
  constructor
  · intro hready
    exact ⟨exec_rxStatus hready, exec_txStatus hready,
      fun i hi => ⟨s.rxByte i, exec_rxRead hready hi, rxByte_received⟩,
      fun i hi => exec_rxRead_refused hready hi⟩
  · intro hrole
    exact ⟨exec_mAvail hrole,
      fun n hpos hlen =>
        ⟨s.newest n, exec_mReadlast hrole ⟨hpos, hlen⟩, newest_length s n, fun i hi => newest_getD hi⟩,
      fun n hn => exec_mReadlast_refused hrole hn⟩

end Machine
end Sys2Proof
end

section
/-! Proofs: a byte slot in front of a module at rest, bit time by bit time (R84, R85, R131 to R137), and the formats as
bytes (R89, R241). -/

namespace Sys2Proof
namespace Machine
open Sys2Proof.SpecForm

/-! ### The data bits of a slot (R136) -/

theorem getLsbD_setBit {acc : Byte} {n k : Nat} (b : Bool) (hk : k < 8) :
    (setBit acc n b).getLsbD k = if k = n then b else acc.getLsbD k := by
  have hone : (1#8 <<< n).getLsbD k = decide (k = n) := by
    rw [BitVec.getLsbD_shiftLeft, BitVec.getLsbD_one]
    grind
  cases b
  · rw [show setBit acc n false = acc &&& ~~~(1#8 <<< n) from rfl, BitVec.getLsbD_and, BitVec.getLsbD_not, hone]
    grind
  · rw [show setBit acc n true = acc ||| 1#8 <<< n from rfl, BitVec.getLsbD_or, hone]
    grind

/-- The accumulator after the samples `bits`, the first of them bit `n` (R136). -/
def setBits (acc : Byte) (n : Nat) : List Bool → Byte
  | [] => acc
  | b :: bits => setBits (setBit acc n b) (n + 1) bits

theorem getLsbD_setBits {acc : Byte} {n k : Nat} (bits : List Bool) (hk : k < 8) :
    (setBits acc n bits).getLsbD k =
      if n ≤ k ∧ k < n + bits.length then bits.getD (k - n) false else acc.getLsbD k := by
  induction bits generalizing acc n with
  | nil => rw [setBits, List.length_nil, if_neg (by omega)]
  | cons b bits ih =>
    rw [setBits, ih, getLsbD_setBit b hk, List.length_cons]
    rcases Nat.lt_trichotomy k n with hlt | rfl | hgt
    · rw [if_neg (by omega), if_neg (by omega), if_neg (by omega)]
    · simp
    · have hnext : k - n = k - (n + 1) + 1 := by omega
      rw [if_neg (show k ≠ n by omega), hnext, List.getD_cons_succ]
      congr 1
      grind

/-- R84: the data bits of a frame, the least significant first. -/
def dataBits (b : Byte) : List Bool :=
  [b.getLsbD 0, b.getLsbD 1, b.getLsbD 2, b.getLsbD 3, b.getLsbD 4, b.getLsbD 5, b.getLsbD 6, b.getLsbD 7]

theorem frameBits_eq (b : Byte) : frameBits b = false :: (dataBits b ++ [true]) := rfl

theorem breakBits_eq : breakBits = false :: (List.replicate 8 false ++ [false]) := rfl

theorem dataBits_getD {b : Byte} {k : Nat} (hk : k < 8) : (dataBits b).getD k false = b.getLsbD k := by
  interval_cases k <;> rfl

theorem setBits_dataBits (b : Byte) : setBits 0 0 (dataBits b) = b := by
  ext k hk
  rw [← BitVec.getLsbD_eq_getElem, getLsbD_setBits _ hk, if_pos ⟨Nat.zero_le k, by simpa [dataBits] using hk⟩,
    Nat.sub_zero, dataBits_getD hk, BitVec.getLsbD_eq_getElem]

theorem setBits_zeros : setBits 0 0 (List.replicate 8 false) = 0 := by decide

/-! ### The disposal of a slot (R137) -/

theorem disposeSlot_break {s : State} {b : Bool} (h : s.rxAcc = 0 ∧ b = false) :
    disposeSlot b s = { s with rxCount := 0, frameComplete := false } :=
  if_pos h

theorem disposeSlot_byte {s : State} {b : Bool} (h : ¬ (s.rxAcc = 0 ∧ b = false)) :
    disposeSlot b s = storeReceived s.rxAcc s :=
  if_neg h

theorem storeReceived_room {s : State} (b : Byte) (h : s.rxCount < s.cfg.rxbufLen) :
    storeReceived b s = { s with
      rxbuf := s.rxbuf.write s.rxCount b
      rxCount := s.rxCount + 1
      frameComplete := completeAfterStore s.frameComplete (s.rxCount + 1) s.rxLen } :=
  if_pos h

theorem storeReceived_full {s : State} (b : Byte) (h : s.cfg.rxbufLen ≤ s.rxCount) : storeReceived b s = s :=
  if_neg (Nat.not_lt.mpr h)

/-- The end of a slot (R137): the receive machine waits for an edge, the clock is stopped. -/
def stopClock (s : State) : State := { s with rxFsm := .waitEdge, clkRun := false }

/-- The disposal looks neither at the receive machine nor at the clock. -/
theorem stopClock_disposeSlot (b : Bool) (s : State) :
    stopClock (disposeSlot b s) = disposeSlot b (stopClock s) := by
  by_cases hbreak : s.rxAcc = 0 ∧ b = false
  · rw [disposeSlot_break hbreak, disposeSlot_break (s := stopClock s) hbreak]
    rfl
  · rw [disposeSlot_byte hbreak, disposeSlot_byte (s := stopClock s) hbreak]
    rcases Nat.lt_or_ge s.rxCount s.cfg.rxbufLen with hroom | hfull
    · rw [storeReceived_room _ hroom, storeReceived_room (s := stopClock s) _ hroom]
      rfl
    · rw [storeReceived_full _ hfull, storeReceived_full (s := stopClock s) _ hfull]

/-! ### One slot (R131 to R137) -/

/-- A module at rest on the idle line. -/
def idleBefore (s : State) : State := { s with lineIn := s.lineLevel true, linePrev := true }

/-- The start bit has reached the edge detector. -/
def edgeRaised (s : State) : State := { s with lineIn := s.lineLevel false, linePrev := false, edgePend := true }

/-- The EDGE of the start bit has been taken. -/
def slotBegun (s : State) : State :=
  { s with
    rxFsm := .waitStart, clkCnt := s.cfg.bitTicks / 2, clkRun := true, lineIn := s.lineLevel false, linePrev := false }

/-- Inside a slot that found `s` at rest: `n` data bits sampled into `acc`, the line at its logical level `b`. -/
def inSlot (s : State) (acc : Byte) (n : Nat) (b : Bool) : State :=
  { s with
    rxFsm := .receiving, rxAcc := acc, rxBitcnt := n, clkRun := true, clkCnt := s.cfg.bitTicks, tickPend := false
    lineIn := s.lineLevel b, linePrev := b }

/-- The end of that slot with stop sample `stop`, before its disposal. -/
def slotEnd (s : State) (acc : Byte) (stop : Bool) : State :=
  { s with
    rxAcc := acc, rxBitcnt := 8, clkRun := false, clkCnt := s.cfg.bitTicks, tickPend := false
    lineIn := s.lineLevel stop, linePrev := stop }

/-- What a break leaves of `s` (R137). -/
def afterBreak (s : State) : State := { slotEnd s 0 false with rxCount := 0, frameComplete := false }

section Slot
variable {s : State} (h : AtRest s)
include h

/-- R12, R86: at a module whose polarity is the line's, the line's logical values are its own. -/
theorem logical_lineLevel_atRest (b : Bool) : s.logical (s.lineLevel b) = b := by
  obtain ⟨-, -, -, -, -, hpol⟩ := h
  cases b <;> simp [State.logical, State.lineLevel, hpol]

theorem lineLevel_true_atRest : s.lineLevel true = s.pol := by
  obtain ⟨-, -, -, -, -, hpol⟩ := h
  exact hpol.symm

theorem lineLevel_false_atRest : s.lineLevel false = !s.pol := by
  obtain ⟨-, -, -, -, -, hpol⟩ := h
  simp [State.lineLevel, hpol]

/-- R86: the idle line before a slot raises nothing. -/
theorem presentLevel_idle : presentLevel (s.lineLevel true) s = idleBefore s := by
  have hlogical := logical_lineLevel_atRest h true
  obtain ⟨⟨-, hdet⟩, -, -, hedge, hawake, -⟩ := h
  rw [presentLevel_detected hdet hawake, hlogical]
  simp [idleBefore, hedge, fallingEdge]

/-- R132: the start bit raises an EDGE. -/
theorem presentLevel_idleBefore : presentLevel (s.lineLevel false) (idleBefore s) = edgeRaised s := by
  have hlogical : (idleBefore s).logical (s.lineLevel false) = false := logical_lineLevel_atRest h false
  obtain ⟨⟨-, hdet⟩, hfsm, hbusy, -, hawake, -⟩ := h
  have harmed : (idleBefore s).edgeEnabled = true := edgeEnabled_iff.mpr ⟨hfsm, hbusy⟩
  rw [presentLevel_detected (s := idleBefore s) hdet hawake, hlogical, harmed]
  simp [idleBefore, edgeRaised, fallingEdge]

/-- R133: the EDGE begins the slot. -/
theorem takeEdge_edgeRaised : takeEdge (edgeRaised s) = slotBegun s := by
  obtain ⟨-, hfsm, hbusy, hedge, hawake, -⟩ := h
  have harmed : (edgeRaised s).edgeEnabled = true := edgeEnabled_iff.mpr ⟨hfsm, hbusy⟩
  rw [takeEdge_enabled harmed, wakeHost_awake (s := edgeRaised s) hawake]
  simp [edgeRaised, slotBegun, hedge]

/-- R135: the sample of the start bit. -/
theorem startSample_slotBegun : startSample (s.lineLevel false) (slotBegun s) = inSlot s 0 0 false := by
  have hlogical : (beginTick (slotBegun s)).logical (s.lineLevel false) = false := logical_lineLevel_atRest h false
  obtain ⟨⟨-, hdet⟩, -, -, hedge, hawake, -⟩ := h
  have hnoedge : (beginTick (slotBegun s)).edgeEnabled = false := rfl
  rw [startSample, presentLevel_detected (s := beginTick (slotBegun s)) hdet hawake, hlogical, hnoedge]
  simp [beginTick, slotBegun, inSlot, hedge]

/-- R131 to R135: the bit time of the start bit. -/
theorem bitTime_start : bitTime false (idleBefore s) = inSlot s 0 0 false := by
  have hlevel : presentLevel ((idleBefore s).lineLevel false) (idleBefore s) = edgeRaised s :=
    presentLevel_idleBefore h
  have hraised : (edgeRaised s).edgePend = true := rfl
  have hcase : (slotBegun s).tickCase = some .rxStart := by
    obtain ⟨-, -, hbusy, -⟩ := h
    exact tickCase_eq_some_iff.mpr ⟨rfl, .inr ⟨hbusy, .inl ⟨rfl, rfl⟩⟩⟩
  simp only [bitTime, hlevel, hraised, if_true, takeEdge_edgeRaised h, hcase]
  exact startSample_slotBegun h

/-- R132: inside a slot a level is remembered and raises nothing. -/
theorem presentLevel_inSlot {acc : Byte} {n : Nat} {b0 : Bool} (b : Bool) :
    presentLevel (s.lineLevel b) (inSlot s acc n b0) = inSlot s acc n b := by
  have hlogical : (inSlot s acc n b0).logical (s.lineLevel b) = b := logical_lineLevel_atRest h b
  obtain ⟨⟨-, hdet⟩, -, -, hedge, hawake, -⟩ := h
  have hnoedge : (inSlot s acc n b0).edgeEnabled = false := rfl
  rw [presentLevel_detected (s := inSlot s acc n b0) hdet hawake, hlogical, hnoedge]
  simp [inSlot, hedge]

theorem tickCase_inSlot_data {acc : Byte} {n : Nat} {b : Bool} (hn : n < 8) :
    (inSlot s acc n b).tickCase = some .rxData := by
  obtain ⟨-, -, hbusy, -⟩ := h
  exact tickCase_eq_some_iff.mpr ⟨rfl, .inr ⟨hbusy, .inr (.inl ⟨rfl, rfl, hn⟩)⟩⟩

theorem tickCase_inSlot_stop {acc : Byte} {b : Bool} : (inSlot s acc 8 b).tickCase = some .rxStop := by
  obtain ⟨-, -, hbusy, -⟩ := h
  exact tickCase_eq_some_iff.mpr ⟨rfl, .inr ⟨hbusy, .inr (.inr ⟨rfl, rfl, rfl⟩)⟩⟩

theorem bitTime_inSlot {acc : Byte} {n : Nat} {b0 b : Bool} {c : TickCase}
    (hc : (inSlot s acc n b).tickCase = some c) :
    bitTime b (inSlot s acc n b0) = runTick c (s.lineLevel b) (inSlot s acc n b) := by
  have hlevel : presentLevel ((inSlot s acc n b0).lineLevel b) (inSlot s acc n b0) = inSlot s acc n b :=
    presentLevel_inSlot h b
  obtain ⟨-, -, -, hedge, -⟩ := h
  have hquiet : (inSlot s acc n b).edgePend = false := hedge
  simp only [bitTime, hlevel, hquiet, Bool.false_eq_true, if_false, hc]
  rfl

/-- R136: a data bit is sampled once. -/
theorem bitTime_data {acc : Byte} {n : Nat} {b0 : Bool} (b : Bool) (hn : n < 8) :
    bitTime b (inSlot s acc n b0) = inSlot s (setBit acc n b) (n + 1) b := by
  have hlogical : (inSlot s acc n b).logical (s.lineLevel b) = b := logical_lineLevel_atRest h b
  calc bitTime b (inSlot s acc n b0)
      = dataSample (s.lineLevel b) (inSlot s acc n b) := bitTime_inSlot h (tickCase_inSlot_data h hn)
    _ = { presentLevel (s.lineLevel b) (inSlot s acc n b) with
          rxAcc := setBit acc n ((inSlot s acc n b).logical (s.lineLevel b)), rxBitcnt := n + 1 } := rfl
    _ = inSlot s (setBit acc n b) (n + 1) b := by
      rw [hlogical, presentLevel_inSlot h]
      rfl

theorem waveform_data {acc : Byte} {n : Nat} {b0 : Bool} (bits : List Bool) (hn : n + bits.length ≤ 8) :
    waveform bits (inSlot s acc n b0) = inSlot s (setBits acc n bits) (n + bits.length) (bits.getLastD b0) := by
  induction bits generalizing acc n b0 with
  | nil => rfl
  | cons b bits ih =>
    rw [List.length_cons] at hn ⊢
    calc waveform (b :: bits) (inSlot s acc n b0)
        = waveform bits (inSlot s (setBit acc n b) (n + 1) b) := by
          rw [← bitTime_data h b (by omega)]; rfl
      _ = inSlot s (setBits acc n (b :: bits)) (n + (bits.length + 1)) ((b :: bits).getLastD b0) := by
          rw [ih (by omega), List.getLastD_cons, Nat.add_right_comm, Nat.add_assoc]; rfl

theorem stopClock_inSlot (acc : Byte) (b : Bool) :
    stopClock (inSlot s acc 8 b) = slotEnd s acc b := by
  obtain ⟨-, hfsm, -⟩ := h
  simp [stopClock, inSlot, slotEnd, hfsm]

/-- R137: the stop bit ends the slot, and the slot is disposed of. -/
theorem bitTime_stop {acc : Byte} {b0 : Bool} (stop : Bool) :
    bitTime stop (inSlot s acc 8 b0) = disposeSlot stop (slotEnd s acc stop) := by
  have hlogical : (inSlot s acc 8 stop).logical (s.lineLevel stop) = stop := logical_lineLevel_atRest h stop
  calc bitTime stop (inSlot s acc 8 b0)
      = stopSample (s.lineLevel stop) (inSlot s acc 8 stop) := bitTime_inSlot h (tickCase_inSlot_stop h)
    _ = stopClock (disposeSlot ((inSlot s acc 8 stop).logical (s.lineLevel stop))
          (presentLevel (s.lineLevel stop) (inSlot s acc 8 stop))) := rfl
    _ = disposeSlot stop (slotEnd s acc stop) := by
      rw [hlogical, presentLevel_inSlot h, stopClock_disposeSlot, stopClock_inSlot h]

/-- A slot of the line: its data bits are collected, and it is disposed of by them and its stop bit. -/
theorem slotOnLine_atRest (data : List Bool) (hlen : data.length = 8) (stop : Bool) :
    slotOnLine (false :: (data ++ [stop])) s = disposeSlot stop (slotEnd s (setBits 0 0 data) stop) :=
  calc slotOnLine (false :: (data ++ [stop])) s
      = waveform (data ++ [stop]) (bitTime false (presentLevel (s.lineLevel true) s)) := rfl
    _ = waveform (data ++ [stop]) (inSlot s 0 0 false) := by rw [presentLevel_idle h, bitTime_start h]
    _ = bitTime stop (waveform data (inSlot s 0 0 false)) := List.foldl_append ..
    _ = disposeSlot stop (slotEnd s (setBits 0 0 data) stop) := by
      rw [waveform_data h data (by omega), Nat.zero_add, hlen, bitTime_stop h]

/-- R84, R137: a frame is stored. -/
theorem receiveByte_atRest (b : Byte) : receiveByte s b = storeReceived b (slotEnd s b true) := by
  have hslot := slotOnLine_atRest h (dataBits b) rfl true
  obtain ⟨⟨hrole, -⟩, -, hbusy, -⟩ := h
  rw [setBits_dataBits, ← frameBits_eq] at hslot
  simp [receiveByte, hrole, hbusy, hslot, disposeSlot, slotEnd]

/-- R85, R137: a break clears the count and the flag. -/
theorem receiveBreak_atRest : receiveBreak s = afterBreak s := by
  have hslot := slotOnLine_atRest h (List.replicate 8 false) rfl false
  obtain ⟨⟨hrole, -⟩, -, hbusy, -⟩ := h
  rw [setBits_zeros, ← breakBits_eq] at hslot
  simp [receiveBreak, hrole, hbusy, hslot, disposeSlot, slotEnd, afterBreak]

theorem atRest_afterBreak : AtRest (afterBreak s) := h

end Slot

/-! ### Bytes one after another (R137, R143) -/

theorem atRest_of_receivedBy {s t : State} {bs : List Byte} (h : AtRest s) (hrec : ReceivedBy s bs t) : AtRest t := by
  obtain ⟨hready, hfsm, hbusy, hedge, hawake, hpol⟩ := h
  obtain ⟨heq, -⟩ := hrec
  rw [heq]
  exact ⟨hready, hfsm, hbusy, hedge, hawake, hpol⟩

theorem cfg_of_receivedBy {s t : State} {bs : List Byte} (hrec : ReceivedBy s bs t) : t.cfg = s.cfg := by
  rw [hrec.1]

theorem rxCount_of_receivedBy {s t : State} {bs : List Byte} (hrec : ReceivedBy s bs t) :
    t.rxCount = min (s.rxCount + bs.length) s.cfg.rxbufLen := by
  rw [hrec.1]

theorem readByte_store (s : State) (b : Byte) (n : Nat) (c : Bool) (a : Nat) :
    State.readByte { s with rxbuf := s.rxbuf.write s.rxCount b, rxCount := n, frameComplete := c } .rxbuf a =
      if a = s.rxCount then b else s.readByte .rxbuf a := by
  by_cases ha : a = s.rxCount <;> simp [State.readByte, State.buffer, Memory.cell_write, ha]

/-- R137: one byte, stored below the bound and dropped at it. -/
theorem receivedBy_receiveByte {s : State} (h : AtRest s) (hcount : s.rxCount ≤ s.cfg.rxbufLen) (b : Byte) :
    ReceivedBy s [b] (receiveByte s b) := by
  have hlevel := lineLevel_true_atRest h
  rw [receiveByte_atRest h]
  rcases Nat.lt_or_ge s.rxCount s.cfg.rxbufLen with hroom | hfull
  · rw [storeReceived_room (s := slotEnd s b true) b hroom]
    refine ⟨?_, fun a => ?_⟩
    · have hflag : (s.rxCount + 1 == s.rxLen) = decide (s.rxCount < s.rxLen ∧ s.rxLen ≤ s.rxCount + 1) := by
        rw [Bool.eq_iff_iff, beq_iff_eq, decide_eq_true_iff]
        omega
      simp [slotEnd, completeAfterStore, hlevel, Nat.succ_le_of_lt hroom, hflag]
    · have hat : s.rxCount ≤ a ∧ a < min (s.rxCount + [b].length) s.cfg.rxbufLen ↔ a = s.rxCount := by
        rw [List.length_singleton]
        omega
      simp only [readByte_store, hat]
      by_cases ha : a = s.rxCount
      · simp [slotEnd, ha]
      · rw [if_neg ha]
        exact if_neg ha
  · have heq : s.rxCount = s.cfg.rxbufLen := Nat.le_antisymm hcount hfull
    rw [storeReceived_full (s := slotEnd s b true) b hfull]
    refine ⟨?_, fun a => ?_⟩
    · have hflag : ¬ (s.cfg.rxbufLen < s.rxLen ∧ s.rxLen ≤ s.cfg.rxbufLen) := by omega
      simp [slotEnd, hlevel, heq, hflag]
    · rw [if_neg (by omega)]
      rfl

/-- R137, R143: the flag after two runs of bytes is that after both together. -/
theorem complete_append {count len n m room : Nat} (hcount : count ≤ room) :
    (decide (count < len ∧ len ≤ min (count + n) room) ||
      decide (min (count + n) room < len ∧ len ≤ min (min (count + n) room + m) room)) =
    decide (count < len ∧ len ≤ min (count + (n + m)) room) := by
  rw [← Bool.decide_or, decide_eq_decide]
  omega

/-- R137, R143: two runs of bytes, the second not empty, are one. -/
theorem receivedBy_append {s t u : State} {bs cs : List Byte} (hcount : s.rxCount ≤ s.cfg.rxbufLen) (hcs : cs ≠ [])
    (hbs : ReceivedBy s bs t) (hrest : ReceivedBy t cs u) : ReceivedBy s (bs ++ cs) u := by
  have hcfg := cfg_of_receivedBy hbs
  have hn := rxCount_of_receivedBy hbs
  obtain ⟨heq, hread⟩ := hbs
  obtain ⟨heq', hread'⟩ := hrest
  constructor
  · have hcount' : min (min (s.rxCount + bs.length) s.cfg.rxbufLen + cs.length) s.cfg.rxbufLen =
        min (s.rxCount + (bs.length + cs.length)) s.cfg.rxbufLen := by omega
    have hlast : (bs ++ cs).getLastD 0 = cs.getLastD 0 := by
      simp [List.getLastD_eq_getLast?, List.getLast?_append, List.getLast?_eq_some_getLast hcs]
    rw [hlast, List.length_append, ← complete_append hcount, ← hcount', ← Bool.or_assoc, heq', heq]
  · intro a
    rw [hread', hread, hcfg, hn, List.length_append]
    rcases Nat.lt_or_ge a (s.rxCount + bs.length) with hfirst | hsecond
    · have hlow : ¬ (min (s.rxCount + bs.length) s.cfg.rxbufLen ≤ a ∧
          a < min (min (s.rxCount + bs.length) s.cfg.rxbufLen + cs.length) s.cfg.rxbufLen) := by omega
      rw [if_neg hlow]
      by_cases hin : s.rxCount ≤ a ∧ a < min (s.rxCount + bs.length) s.cfg.rxbufLen
      · rw [if_pos hin, if_pos (by omega), List.getD_append _ _ _ _ (by omega)]
      · rw [if_neg hin, if_neg (by omega)]
    · have hout : ¬ (s.rxCount ≤ a ∧ a < min (s.rxCount + bs.length) s.cfg.rxbufLen) := by omega
      rw [if_neg hout, List.getD_append_right _ _ _ _ (by omega)]
      have hoffset : a < s.cfg.rxbufLen →
          a - s.rxCount - bs.length = a - min (s.rxCount + bs.length) s.cfg.rxbufLen := by omega
      by_cases hin : s.rxCount ≤ a ∧ a < min (s.rxCount + (bs.length + cs.length)) s.cfg.rxbufLen
      · rw [if_pos hin, if_pos (by omega), hoffset (by omega)]
      · rw [if_neg hin, if_neg (by omega)]

/-- R137, R143: bytes in front of a module at rest, at least one. -/
theorem receivedBy_receiveBytes {s : State} (h : AtRest s) (hcount : s.rxCount ≤ s.cfg.rxbufLen) (b : Byte)
    (bs : List Byte) : ReceivedBy s (b :: bs) (receiveBytes (b :: bs) s) := by
  induction bs generalizing b s with
  | nil => exact receivedBy_receiveByte h hcount b
  | cons c cs ih =>
    have hfirst := receivedBy_receiveByte h hcount b
    have hcount' : (receiveByte s b).rxCount ≤ (receiveByte s b).cfg.rxbufLen := by
      rw [rxCount_of_receivedBy hfirst, cfg_of_receivedBy hfirst]
      exact Nat.min_le_right _ _
    exact receivedBy_append hcount (List.cons_ne_nil c cs) hfirst (ih (atRest_of_receivedBy h hfirst) hcount' c)

/-- R80: no format is empty. -/
theorem lineBytes_ne_nil {o : WordOrder} {i : Instr} {bs : List Byte} (hwf : i.wf = true)
    (hbs : lineBytes o i = some bs) : bs ≠ [] := by
  have hword : ∀ w, putWord o w ≠ [] := fun w => by cases o <;> exact List.cons_ne_nil _ _
  have hblock : ∀ n, bs.length = n + 1 → bs ≠ [] := fun n hlen => List.ne_nil_of_length_eq_add_one hlen
  unfold lineBytes at hbs
  split at hbs <;> cases hbs
  case h_1 => exact List.cons_ne_nil _ _
  case h_2 | h_3 => exact hword _
  case h_4 | h_5 | h_6 => exact hblock _ (eq_of_beq hwf)

theorem onLine_atRest {s : State} (h : AtRest s) (k : State) : onLine s k = .next k := by
  obtain ⟨hready, -, -, -, hawake, -⟩ := h
  exact onLine_usable hready hawake k

/-- R85, R137: the row of a break at a module at rest. -/
theorem exec_break10_atRest {s : State} (h : AtRest s) :
    exec .break10 s = .next (afterBreak s) :=
  calc exec .break10 s = onLine s (receiveBreak s) := rfl
    _ = .next (afterBreak s) := by rw [onLine_atRest h, receiveBreak_atRest h]

/-- Settles O34: the bytes of a format through the slots of their frames, and the slot of a break. -/
theorem moduleReceivesFormatsByteByByte : Obligations.ModuleReceivesFormatsByteByByte := by
  intro s h hcount
  constructor
  · intro i bs hwf hbs
    obtain ⟨b, bs, rfl⟩ := List.exists_cons_of_ne_nil (lineBytes_ne_nil hwf hbs)
    exact ⟨_, (exec_lineFormat hwf hbs).trans (onLine_atRest h _), receivedBy_receiveBytes h hcount b bs⟩
  · rw [exec_break10_atRest h, afterBreak, slotEnd, lineLevel_false_atRest h]

end Machine
end Sys2Proof
end

section
/-! Proofs: what the encoder of a codeword writes, the decoder reads (R111, R112, R115, R116): parity, syndrome and data
bits are linear, and the check bits of a codeword cancel the syndrome and the parity of its data bits. -/

namespace Sys2Proof
namespace Machine
open Sys2Proof.SpecForm

/-! ### Parity, syndrome and data bits are linear (R111, R114, R116) -/

/-- The parity of sums is the sum of the parities. -/
theorem foldl_xor_xor {α : Type} (f g : α → Bool) (l : List α) (p q : Bool) :
    l.foldl (fun acc i => acc ^^ (f i ^^ g i)) (p ^^ q) =
      (l.foldl (fun acc i => acc ^^ f i) p ^^ l.foldl (fun acc i => acc ^^ g i) q) := by
  induction l generalizing p q with
  | nil => rfl
  | cons i l ih =>
    have hswap : (p ^^ q ^^ (f i ^^ g i)) = (p ^^ f i ^^ (q ^^ g i)) := by
      simp only [Bool.xor_assoc, Bool.xor_left_comm]
    rw [List.foldl_cons, List.foldl_cons, List.foldl_cons, hswap, ih]

theorem xorall_xor {n : Nat} (v w : BitVec n) : xorall (v ^^^ w) = (xorall v ^^ xorall w) := by
  simp only [xorall, BitVec.getLsbD_xor]
  exact foldl_xor_xor _ _ _ false false

theorem xor_and_distrib_right {n : Nat} (v w m : BitVec n) : (v ^^^ w) &&& m = v &&& m ^^^ w &&& m := by
  ext i
  simp [Bool.and_xor_distrib_right]

theorem syndrome_xor (c e : Word16) : syndrome (c ^^^ e) = syndrome c ^^^ syndrome e := by
  simp only [syndrome, xor_and_distrib_right, xorall_xor, ← BitVec.ofBool_xor_ofBool, ← BitVec.xor_append]

theorem extractData_xor (c e : Word16) : extractData (c ^^^ e) = extractData c ^^^ extractData e := by
  simp only [extractData, BitVec.getLsbD_xor, ← BitVec.ofBool_xor_ofBool, ← BitVec.xor_append]

/-! ### The check bits of a codeword (R110, R112) -/

/-- The check bits of a codeword: the four of a syndrome, and the overall parity. -/
def checkWord (s : BitVec 4) (p : Bool) : Word16 :=
  bitWord 0 (s.getLsbD 0) ||| bitWord 1 (s.getLsbD 1) ||| bitWord 3 (s.getLsbD 2) ||| bitWord 7 (s.getLsbD 3) |||
    bitWord 15 p

theorem syndrome_checkWord (s : BitVec 4) (p : Bool) : syndrome (checkWord s p) = s := by
  revert s p; decide

theorem xorall_checkWord (s : BitVec 4) (p : Bool) : xorall (checkWord s p) = (xorall (checkWord s false) ^^ p) := by
  revert s p; decide

theorem extractData_checkWord (s : BitVec 4) (p : Bool) : extractData (checkWord s p) = 0 := by
  revert s p; decide

theorem checkWord_and_mask (s : BitVec 4) (p : Bool) : checkWord s p &&& 0x808B#16 = checkWord s p := by
  revert s p; decide

/-- R82, R110: the bits of the placed data, the lowest first. -/
theorem getLsbD_placeData (d : Data11) (i : Nat) : (placeData d).getLsbD i =
    [false, false, d.getLsbD 10, false, d.getLsbD 9, d.getLsbD 8, d.getLsbD 7, false, d.getLsbD 6, d.getLsbD 5,
      d.getLsbD 4, d.getLsbD 3, d.getLsbD 2, d.getLsbD 1, d.getLsbD 0, false].getD i false := by
  rcases Nat.lt_or_ge i 16 with hi | hi
  · refine BitVec.getLsbD_append.trans ?_
    simp only [BitVec.getLsbD_append]
    interval_cases i <;> simp
  · rw [BitVec.getLsbD_of_ge _ _ hi, List.getD_eq_default _ _ hi]

/-- R116: the bits of the extracted data, the lowest first. -/
theorem getLsbD_extractData (c : Word16) {i : Nat} (hi : i < 11) : (extractData c).getLsbD i =
    [c.getLsbD 14, c.getLsbD 13, c.getLsbD 12, c.getLsbD 11, c.getLsbD 10, c.getLsbD 9, c.getLsbD 8, c.getLsbD 6,
      c.getLsbD 5, c.getLsbD 4, c.getLsbD 2].getD i false := by
  refine BitVec.getLsbD_append.trans ?_
  simp only [BitVec.getLsbD_append]
  interval_cases i <;> simp

theorem placeData_and_mask (d : Data11) : placeData d &&& 0x808B#16 = 0 := by
  ext i hi
  rw [BitVec.getElem_and, ← BitVec.getLsbD_eq_getElem hi, getLsbD_placeData]
  interval_cases i <;> simp

theorem extractData_placeData (d : Data11) : extractData (placeData d) = d := by
  ext i hi
  rw [← BitVec.getLsbD_eq_getElem hi, getLsbD_extractData _ hi]
  simp only [getLsbD_placeData]
  interval_cases i <;> rfl

theorem or_eq_xor_of_and_eq_zero {n : Nat} {v w : BitVec n} (h : v &&& w = 0) : v ||| w = v ^^^ w := by
  ext i hi
  have hbit : (v[i] && w[i]) = false := by rw [← BitVec.getElem_and]; simp [h]
  rw [BitVec.getElem_or, BitVec.getElem_xor]
  grind

/-- R110: the data bits and the check bits of a codeword stand at different positions. -/
theorem placeData_or_checkWord (d : Data11) (s : BitVec 4) (p : Bool) :
    placeData d ||| checkWord s p = placeData d ^^^ checkWord s p :=
  or_eq_xor_of_and_eq_zero <|
    calc placeData d &&& checkWord s p = placeData d &&& 0x808B#16 &&& checkWord s p := by
          rw [BitVec.and_assoc, BitVec.and_comm 0x808B#16, checkWord_and_mask]
      _ = 0 := by rw [placeData_and_mask]; exact BitVec.zero_and

theorem placeParity_placeData (d : Data11) :
    placeParity (placeData d) = placeData d ^^^ checkWord (syndrome (placeData d)) false := by
  rw [← placeData_or_checkWord]
  simp [placeParity, checkWord, bitWord, BitVec.or_assoc]

/-- R112: the overall parity is that of the other bits of the word. -/
theorem hamEncode_eq (d : Data11) :
    hamEncode d = placeData d ^^^ checkWord (syndrome (placeData d)) (xorall (placeParity (placeData d))) := by
  rw [← placeData_or_checkWord]
  simp [hamEncode, placeParity, checkWord, BitVec.or_assoc]

theorem syndrome_hamEncode (d : Data11) : syndrome (hamEncode d) = 0 := by
  rw [hamEncode_eq, syndrome_xor, syndrome_checkWord, BitVec.xor_self]; rfl

theorem wordParity_hamEncode (d : Data11) : wordParity (hamEncode d) = false := by
  rw [wordParity, hamEncode_eq, xorall_xor, xorall_checkWord, placeParity_placeData, xorall_xor, ← Bool.xor_assoc,
    Bool.xor_self]

theorem extractData_hamEncode (d : Data11) : extractData (hamEncode d) = d := by
  rw [hamEncode_eq, extractData_xor, extractData_placeData, extractData_checkWord]
  exact BitVec.xor_zero

/-- R112, R115: a codeword decodes to its data. -/
theorem hamDecode_hamEncode (d : Data11) : hamDecode (hamEncode d) = .ok d := by
  simp only [hamDecode, syndrome_hamEncode, wordParity_hamEncode, extractData_hamEncode, and_self, if_true]

end Machine
end Sys2Proof
end

section
/-! Proofs: a command's way from the master over the line to the module (R89, R200 to R206). -/

namespace Sys2Proof
namespace Machine
open Sys2Proof.SpecForm

/-! ### A command as bytes, and the bytes as a command (R64, R200 to R204) -/

/-- R64, R66: a word is two bytes, and is read back from them. -/
theorem exists_putWord (o : WordOrder) (w : Word16) : ∃ b0 b1, putWord o w = [b0, b1] ∧ getWord o b0 b1 = w := by
  have hword : w.extractLsb' 8 8 ++ w.extractLsb' 0 8 = w := by
    ext i hi
    simp only [BitVec.getElem_append, BitVec.getElem_extractLsb']
    grind
  cases o
  · exact ⟨_, _, rfl, hword⟩
  · exact ⟨_, _, rfl, hword⟩

section Command
variable {c : Config} {a : Addr} {op : Opcode} {g : Data11}

/-- R87, R201: the argument of a one-word command is the part of it that its field holds. -/
theorem payloadArg_payloadOf_low (hc : Packs c) (ha : a.toNat < 2 ^ c.addrW) :
    payloadArg c (payloadOf c a op g) = lowArg c g := by
  have hwidth : c.argW < 11 := by unfold Packs at hc; omega
  have hpos : 0 < 2 ^ c.argW := by positivity
  have hsmall : 2 ^ c.argW < 2048 := Nat.pow_lt_pow_right (show 1 < 2 by decide) hwidth
  have hone : ((1 <<< c.argW : Nat) : Data11).toNat = 2 ^ c.argW := by
    rw [BitVec.natCast_eq_ofNat, BitVec.toNat_ofNat, Nat.one_shiftLeft]
    exact Nat.mod_eq_of_lt hsmall
  have hmask : (((1 <<< c.argW : Nat) : Data11) - 1).toNat = 2 ^ c.argW - 1 := by
    rw [BitVec.toNat_sub_of_le (BitVec.le_def.mpr (hone ▸ hpos)), hone]
    rfl
  apply BitVec.eq_of_toNat_eq
  rw [lowArg, BitVec.toNat_and, hmask, Nat.and_two_pow_sub_one_eq_mod, payloadArg, payloadOf_toNat hc ha,
    Nat.mul_add_mod_self_right, Nat.mod_mod, BitVec.toNat_ofNat]
  exact Nat.mod_eq_of_lt ((Nat.mod_le _ _).trans_lt g.isLt)

theorem length_encodeCommand (c : Config) (a : Addr) (op : Opcode) (g : Data11) :
    (encodeCommand c a op g).length = if op ∈ c.wide then 4 else 2 := by
  obtain ⟨b0, b1, hfirst, -⟩ := exists_putWord c.wordOrder (hamEncode (payloadOf c a op g))
  obtain ⟨b2, b3, hsecond, -⟩ := exists_putWord c.wordOrder (hamEncode g)
  by_cases hwide : op ∈ c.wide <;> simp [encodeCommand, packCommand, hwide, hfirst, hsecond]

/-- R202, R204: CMD.DECODE of what CMD.ENCODE gives. -/
theorem decodeCommand_encodeCommand (hc : Packs c) (ha : a.toNat < 2 ^ c.addrW) :
    decodeCommand c (encodeCommand c a op g) = some (.command a op (carried c op g)) := by
  obtain ⟨b0, b1, hfirst, hget⟩ := exists_putWord c.wordOrder (hamEncode (payloadOf c a op g))
  obtain ⟨b2, b3, hsecond, hget'⟩ := exists_putWord c.wordOrder (hamEncode g)
  by_cases hwide : op ∈ c.wide
  · simp [encodeCommand, packCommand, decodeCommand, decodeWords, decodeSecond, carried, hwide, hfirst, hsecond, hget,
      hget', hamDecode_hamEncode, payloadOp_payloadOf hc ha, payloadAddr_payloadOf hc ha]
  · simp [encodeCommand, packCommand, decodeCommand, decodeWords, carried, hwide, hfirst, hget, hamDecode_hamEncode,
      payloadOp_payloadOf hc ha, payloadAddr_payloadOf hc ha, payloadArg_payloadOf_low hc ha]

/-- The packing and the byte order are all of a configuration that the bytes of a command depend on (R8, R87). -/
theorem encodeCommand_congr {c' : Config} (haddr : c.addrW = c'.addrW) (harg : c.argW = c'.argW)
    (hwide : c.wide = c'.wide) (horder : c.wordOrder = c'.wordOrder) :
    encodeCommand c a op g = encodeCommand c' a op g := by
  simp only [encodeCommand, packCommand, payloadOf, haddr, harg, hwide, horder]

end Command

/-! ### A command at the module (R206 to R218) -/

theorem needModule_own {s : State} (hrole : s.cfg.role = .moduleRole) (k : Answer) : needModule s k = k :=
  if_pos hrole

theorem opcode_cases (op : Opcode) :
    op = 0 ∨ op = 1 ∨ op = 2 ∨ op = 3 ∨ op = 4 ∨ op = 5 ∨ op = 6 ∨ op = 7 := by
  revert op; decide

/-- R211 to R218: every command's row offers it to the filter, with the block's part of that opcode. -/
theorem exec_commandInstr {s : State} (hrole : s.cfg.role = .moduleRole) (a : Addr) (op : Opcode) (g : Data11) :
    exec (commandInstr a op g) s = offerCommand a op g (commandEffect op g) s := by
  rcases opcode_cases op with rfl | rfl | rfl | rfl | rfl | rfl | rfl | rfl <;> exact needModule_own hrole _

/-- R206: CMD.RECV of a new frame that decodes to a command. -/
theorem exec_cmdRecv_command {s : State} {a : Addr} {op : Opcode} {g : Data11} (hrole : s.cfg.role = .moduleRole)
    (hcount : 2 ≤ s.rxCount) (hnew : s.rxLen = 2 → s.frameComplete = true)
    (hdec : decodeCommand s.cfg (s.readBytes .rxbuf (if s.rxCount < 4 then 2 else 4)) = some (.command a op g)) :
    exec .cmdRecv s = offerCommand a op g (commandEffect op g) (takeFrame 2 s) := by
  have hframe : ¬ (s.rxLen = 2 ∧ s.frameComplete = false) := fun ⟨hlen, hflag⟩ => by simp [hnew hlen] at hflag
  refine (needModule_own hrole _).trans ?_
  rw [if_neg (Nat.not_lt.mpr hcount), if_neg hframe, hdec]

/-! ### Frames in front of a module at rest -/

theorem execAll_frames {s : State} (h : AtRest s) (hcount : s.rxCount ≤ s.cfg.rxbufLen) (bs : List Byte) :
    execAll (bs.map .frame10) s = .next (receiveBytes bs s) := by
  induction bs generalizing s with
  | nil => rfl
  | cons b bs ih =>
    have hrec := receivedBy_receiveByte h hcount b
    have hfirst : exec (.frame10 b) s = .next (receiveByte s b) := onLine_atRest h _
    have hcount' : (receiveByte s b).rxCount ≤ (receiveByte s b).cfg.rxbufLen := by
      rw [rxCount_of_receivedBy hrec, cfg_of_receivedBy hrec]
      exact Nat.min_le_right _ _
    simp only [List.map_cons, execAll, hfirst]
    exact ih (atRest_of_receivedBy h hrec) hcount'

/-- R143: what was received from the start of RXBUF and fits it is read back. -/
theorem readBytes_of_receivedBy {s t : State} {bs : List Byte} (hrec : ReceivedBy s bs t) (hstart : s.rxCount = 0)
    (hfits : bs.length ≤ s.cfg.rxbufLen) : t.readBytes .rxbuf bs.length = bs := by
  obtain ⟨-, hread⟩ := hrec
  apply List.ext_getElem
  · simp [State.readBytes]
  · intro i hi hi'
    simp only [State.readBytes, List.getElem_map, List.getElem_range]
    rw [hread, if_pos (by omega), hstart, Nat.sub_zero, List.getD_eq_getElem _ _ hi']

/-- The bytes of a command, received from the start of RXBUF, deliver it. -/
theorem exec_cmdRecv_received {s t : State} {a : Addr} {op : Opcode} {g : Data11} (h : AtRest s) (hc : Packs s.cfg)
    (ha : a.toNat < 2 ^ s.cfg.addrW) (hstart : s.rxCount = 0) (hroom : 4 ≤ s.cfg.rxbufLen)
    (hrec : ReceivedBy s (encodeCommand s.cfg a op g) t) :
    exec .cmdRecv t = exec (commandInstr a op (carried s.cfg op g)) { t with rxLen := 2, frameComplete := false } := by
  have hlen : (encodeCommand s.cfg a op g).length = 2 ∨ (encodeCommand s.cfg a op g).length = 4 := by
    rw [length_encodeCommand]
    split <;> simp
  have hcfg := cfg_of_receivedBy hrec
  have hcount := rxCount_of_receivedBy hrec
  have hread := readBytes_of_receivedBy hrec hstart (by omega)
  obtain ⟨⟨hrole, -⟩, -⟩ := atRest_of_receivedBy h hrec
  have hnew : t.rxLen = 2 → t.frameComplete = true := by
    obtain ⟨heq, -⟩ := hrec
    rw [heq]
    intro htwo
    have htwo : s.rxLen = 2 := htwo
    simp only [Bool.or_eq_true, decide_eq_true_eq]
    omega
  have hwords : (if t.rxCount < 4 then 2 else 4) = (encodeCommand s.cfg a op g).length := by
    split <;> omega
  rw [exec_cmdRecv_command hrole (by omega) hnew (by rw [hwords, hread, hcfg]; exact decodeCommand_encodeCommand hc ha)]
  exact (exec_commandInstr (s := takeFrame 2 t) hrole a op _).symm

/-- R203: CMD.SEND queues the command's bytes. -/
theorem exec_cmdSend {m : State} (hrole : m.cfg.role = .masterRole) (hdir : m.mDir = .rx) (hring : 4 ≤ m.cfg.ringLen)
    (a : Addr) (op : Opcode) (g : Data11) :
    ∃ m', exec (.cmdSend a op g) m = .next m' ∧ m'.mTxq = encodeCommand m.cfg a op g := by
  have hlen : (encodeCommand m.cfg a op g).length ≤ m.cfg.ringLen := by
    rw [length_encodeCommand]
    split <;> omega
  exact ⟨_, (needMaster_own hrole _).trans (startSending_next.mpr ⟨hdir, .inl rfl, hlen, rfl⟩), rfl⟩

/-- Settles O28: the break empties the count, the frames land from offset 0, and CMD.RECV decodes what was encoded. -/
theorem sentCommandIsReceived : Obligations.SentCommandIsReceived := by
  intro a op g m s hrole hdir hring h hroom hpacks ha haddr harg hwide horder
  obtain ⟨m', hsend, hqueue⟩ := exec_cmdSend hrole hdir hring a op g
  have hbytes : m'.mTxq = encodeCommand s.cfg a op g := hqueue.trans (encodeCommand_congr haddr harg hwide horder)
  have hpacks' : Packs s.cfg := by rwa [Packs, ← haddr, ← harg]
  have hafter := atRest_afterBreak h
  have hcount : (afterBreak s).rxCount ≤ (afterBreak s).cfg.rxbufLen := Nat.zero_le _
  obtain ⟨b, bs, hcons⟩ : ∃ b bs, encodeCommand s.cfg a op g = b :: bs := by
    apply List.exists_cons_of_length_pos
    rw [length_encodeCommand]
    split <;> decide
  have hrec : ReceivedBy (afterBreak s) (encodeCommand s.cfg a op g)
      (receiveBytes (encodeCommand s.cfg a op g) (afterBreak s)) := by
    rw [hcons]
    exact receivedBy_receiveBytes hafter hcount b bs
  refine ⟨m', _, hsend, ?_, exec_cmdRecv_received (s := afterBreak s) hafter hpacks' (haddr ▸ ha) rfl hroom hrec⟩
  rw [hbytes, execAll, exec_break10_atRest h]
  exact execAll_frames hafter hcount _

end Machine
end Sys2Proof
end

section
/-! Proofs: a whole transmission of a module, tick by tick (R148 to R150, R153). -/

namespace Sys2Proof
namespace Machine
open Sys2Proof.SpecForm

/-! ### The bits of a transmission (R84, R149) -/

theorem frameBits_getD {b : Byte} {j : Nat} (hj : j < 10) :
    (frameBits b).getD j true =
      if j = 0 then false else if j ≤ 8 then b.getLsbD (j - 1) else true := by
  interval_cases j <;> rfl

/-- R149: bit `k` of the frames is bit `k % 10` of the frame of byte `k / 10`; after the last frame
there is logical 1. -/
theorem flatMap_frameBits_getD (bs : List Byte) (k : Nat) :
    (bs.flatMap frameBits).getD k true =
      if k < 10 * bs.length then (frameBits (bs.getD (k / 10) 0)).getD (k % 10) true else true := by
  induction bs generalizing k with
  | nil => rfl
  | cons b bs ih =>
    have hframe : (frameBits b).length = 10 := rfl
    rw [List.flatMap_cons, List.length_cons]
    rcases Nat.lt_or_ge k 10 with hin | hafter
    · rw [List.getD_append _ _ _ _ (by omega), if_pos (by omega), Nat.div_eq_of_lt hin, Nat.mod_eq_of_lt hin,
        List.getD_cons_zero]
    · obtain ⟨j, rfl⟩ := Nat.exists_eq_add_of_le' hafter
      rw [List.getD_append_right _ _ _ _ (by omega), hframe, Nat.add_sub_cancel, ih,
        Nat.add_div_right j (by decide), Nat.add_mod_right, List.getD_cons_succ]
      exact if_congr (by omega) rfl rfl

/-! ### A transmission in progress (R148, R150) -/

/-- `t` is `k` ticks into the transmission of `bs` that began in `s`, with ticks left. -/
structure Transmitting (s : State) (bs : List Byte) (k : Nat) (t : State) : Prop where
  cfg : t.cfg = s.cfg
  pol : t.pol = s.pol
  polDetected : t.polDetected = true
  awake : t.asleep = false
  clkRun : t.clkRun = true
  txBusy : t.txBusy = true
  txLen : t.txLen = bs.length
  txTick : t.txTick = k
  loaded : ∀ i, i < bs.length → t.readByte .txbuf i = bs.getD i 0

/-- R148: TX.SEND begins the transmission. -/
theorem exec_txSend_transmitting {s : State} {bs : List Byte} (hready : SerReady s) (hawake : s.asleep = false)
    (hfsm : s.rxFsm = .waitEdge) (hbusy : s.txBusy = false) (hpos : 1 ≤ bs.length) (hlen : bs.length ≤ s.cfg.txbufLen) :
    ∃ t, exec (.txSend bs) s = .next t ∧ Transmitting s bs 0 t := by
  refine ⟨_, (needSer_ready hready _).trans (startTransmission_next.mpr ⟨hbusy, hfsm, hpos, hlen, rfl⟩), ?_⟩
  exact {
    cfg := rfl, pol := rfl, polDetected := hready.2, awake := hawake, clkRun := rfl, txBusy := rfl, txLen := rfl
    txTick := rfl
    loaded := fun i hi => by
      simp only [State.readByte, State.buffer]
      rw [Memory.cell_writeList, if_pos (by omega), Nat.sub_zero, List.getElem?_eq_getElem hi,
        List.getD_eq_getElem _ _ hi] }

/-- R149: what the rule calls `TXBIT` is the bit of the frames, and logical 1 after them. -/
theorem Transmitting.txBit {s t : State} {bs : List Byte} {k : Nat} (h : Transmitting s bs k t)
    (hk : k < 10 * bs.length) : t.txBit k = (bs.flatMap frameBits).getD k true := by
  rw [State.txBit, h.loaded _ (by omega), flatMap_frameBits_getD, if_pos hk, frameBits_getD (Nat.mod_lt k (by decide))]

theorem Transmitting.exec_tickTx {s t : State} {bs : List Byte} {k : Nat} (h : Transmitting s bs k t)
    (hrole : s.cfg.role = .moduleRole) (v : Bool) : exec (.tickTx v) t = .next (transmitTick t) :=
  have hcase : t.tickCase = some .tx := tickCase_eq_some_iff.mpr ⟨h.clkRun, .inl ⟨rfl, h.txBusy⟩⟩
  tickOf_next.mpr ⟨h.cfg ▸ hrole, h.polDetected, hcase, rfl⟩

/-- A transmit tick that drives the logical level `b` (R150). -/
def driveTick (b : Bool) (t : State) : State :=
  { driveLine (t.elec b) (beginTick t) with txTick := t.txTick + 1 }

theorem transmitTick_eq_driveTick {t : State} {b : Bool}
    (h : transmitAction (beginTick t) = driveLine ((beginTick t).elec b) (beginTick t)) :
    transmitTick t = driveTick b t := by
  rw [transmitTick, h]
  rfl

@[simp] theorem driveTick_lineOe (b : Bool) (t : State) : (driveTick b t).lineOe = true := by simp [driveTick]

@[simp] theorem driveTick_lineOut (b : Bool) (t : State) : (driveTick b t).lineOut = t.elec b := by simp [driveTick]

/-- R150: how many ticks the transmission has. -/
theorem Transmitting.txTotal {s t : State} {bs : List Byte} {k : Nat} (h : Transmitting s bs k t) :
    (beginTick t).txTotal = 10 * bs.length + s.cfg.turnaround := by
  rw [State.txTotal, beginTick_txLen, beginTick_cfg, h.txLen, h.cfg]

/-- R149, R150: before the last tick, the tick drives the bit of the frames, and logical 1 after them. -/
theorem Transmitting.transmitTick_drives {s t : State} {bs : List Byte} {k : Nat} (h : Transmitting s bs k t)
    (hk : k + 1 < 10 * bs.length + s.cfg.turnaround) :
    transmitTick t = driveTick ((bs.flatMap frameBits).getD k true) t := by
  have htick : (beginTick t).txTick = k := h.txTick
  have hlen : (beginTick t).txLen = bs.length := h.txLen
  have htotal := h.txTotal
  apply transmitTick_eq_driveTick
  obtain ⟨hframe, heq⟩ | ⟨hgap, -, heq⟩ | ⟨-, hlast, -⟩ := transmitAction_cases (beginTick t)
  · have hbit : (beginTick t).txBit (beginTick t).txTick = (bs.flatMap frameBits).getD k true := by
      rw [htick]
      exact h.txBit (by omega)
    rw [heq, hbit]
  · rw [heq, flatMap_frameBits_getD, if_neg (by omega)]
  · omega

/-- A driving tick leaves the transmission one tick further. -/
theorem Transmitting.driveTick {s t : State} {bs : List Byte} {k : Nat} (h : Transmitting s bs k t) (b : Bool) :
    Transmitting s bs (k + 1) (driveTick b t) := by
  rw [Machine.driveTick, driveLine_awake (s := beginTick t) h.awake]
  exact { h with txTick := congrArg (· + 1) h.txTick }

/-- R150, R153: the last tick releases the line and ends the transmission. -/
theorem Transmitting.transmitTick_last {s t : State} {bs : List Byte} {k : Nat} (h : Transmitting s bs k t)
    (hturn : 1 ≤ s.cfg.turnaround) (hk : k + 1 = 10 * bs.length + s.cfg.turnaround) :
    (transmitTick t).txTick = k + 1 ∧ (transmitTick t).lineOe = false ∧ (transmitTick t).txBusy = false ∧
      (transmitTick t).clkRun = false := by
  have htick : (beginTick t).txTick = k := h.txTick
  have hlen : (beginTick t).txLen = bs.length := h.txLen
  have htotal := h.txTotal
  obtain ⟨hframe, -⟩ | ⟨-, hgap, -⟩ | ⟨-, -, heq⟩ := transmitAction_cases (beginTick t)
  · omega
  · omega
  · rw [transmitTick, heq]
    simp [h.txTick]

/-! ### Ticks one after another -/

theorem execAll_append (is js : List Instr) {s t : State} (h : execAll is s = .next t) :
    execAll (is ++ js) s = execAll js t := by
  induction is generalizing s with
  | nil => cases h; rfl
  | cons i is ih =>
    rw [List.cons_append, execAll]
    rw [execAll] at h
    split at h
    · next u hu => simpa only [hu] using ih h
    · next hne => exact absurd h (hne t)

theorem Transmitting.ticks {s t : State} {bs : List Byte} {k : Nat} (h : Transmitting s bs k t)
    (hrole : s.cfg.role = .moduleRole) (vs : List Bool)
    (hk : k + vs.length < 10 * bs.length + s.cfg.turnaround) :
    ∃ u, execAll (vs.map .tickTx) t = .next u ∧ Transmitting s bs (k + vs.length) u := by
  induction vs generalizing k t with
  | nil => exact ⟨t, rfl, h⟩
  | cons v vs ih =>
    rw [List.length_cons] at hk
    have hnext := h.transmitTick_drives (by omega)
    obtain ⟨u, hrun, hu⟩ := ih (h.driveTick ((bs.flatMap frameBits).getD k true)) (by omega)
    refine ⟨u, ?_, by rwa [List.length_cons, Nat.add_comm vs.length, ← Nat.add_assoc]⟩
    simp only [List.map_cons, execAll, h.exec_tickTx hrole, hnext, hrun]

/-- Settles O42: the ticks before the one asked for drive and go on; the one asked for drives, or is the last. -/
theorem transmissionCarriesEveryFrame : Obligations.TransmissionCarriesEveryFrame := by
  intro bs s hready hawake hfsm hbusy hpos hlen hturn
  obtain ⟨t0, hsend, hstart⟩ := exec_txSend_transmitting hready hawake hfsm hbusy hpos hlen
  refine ⟨t0, hsend, fun vs hone hall => ?_⟩
  obtain ⟨hrole, -⟩ := hready
  obtain ⟨ws, v, rfl⟩ := (List.eq_nil_or_concat' vs).resolve_left (List.ne_nil_of_length_pos hone)
  rw [List.length_append, List.length_singleton] at hall ⊢
  obtain ⟨u, hrun, hu⟩ := hstart.ticks hrole ws (by omega)
  rw [Nat.zero_add] at hu
  have hexec : execAll ((ws ++ [v]).map .tickTx) t0 = .next (transmitTick u) := by
    rw [List.map_append, execAll_append _ _ hrun]
    simp only [List.map_singleton, execAll, hu.exec_tickTx hrole]
  refine ⟨_, hexec, ?_⟩
  rcases Nat.lt_or_eq_of_le hall with hmore | hlast
  · have hdrive := hu.transmitTick_drives hmore
    have hnext := hu.driveTick ((bs.flatMap frameBits).getD ws.length true)
    have hlevel : ∀ b, u.elec b = s.elec b := fun b => by rw [State.elec, State.elec, hu.pol]
    rw [hdrive, driveTick_lineOe, driveTick_lineOut, hlevel]
    refine ⟨hnext.txTick, fun _ => ⟨rfl, hnext.txBusy, rfl⟩, fun hgap _ => ⟨rfl, hnext.txBusy, ?_⟩, fun _ => by omega⟩
    rw [flatMap_frameBits_getD, if_neg (by omega)]
  · obtain ⟨htick, hoe, hbusy', hclk⟩ := hu.transmitTick_last hturn hlast
    exact ⟨htick, fun _ => by omega, fun _ _ => by omega, fun _ => ⟨hoe, hbusy', hclk⟩⟩

end Machine
end Sys2Proof
end

section
/-! Proofs: the master's transmit agent, move by move (R176 to R178), and words written out from the encoding tables
(R84, R85, R87, R90). -/

namespace Sys2Proof
namespace Machine
open Sys2Proof.SpecForm

/-! ### The levels at the master (R178) -/

theorem masterElec_eq (s : State) (b : Bool) : s.masterElec b = masterLevel s b := by
  unfold State.masterElec masterLevel
  cases s.mMap <;> cases b <;> simp

theorem map_span (s : State) (bits : List Bool) : bits.map (s.span 1) = drivenBits s bits :=
  List.map_congr_left fun b _ => by rw [State.span, masterElec_eq]

theorem drivenBits_append (s : State) (bits bits' : List Bool) :
    drivenBits s (bits ++ bits') = drivenBits s bits ++ drivenBits s bits' :=
  List.map_append

theorem driveWave_eq (bits : List Bool) (s : State) :
    driveWave bits s = { s with mWave := s.mWave ++ drivenBits s bits } := by
  rw [driveWave, map_span]

/-! ### The moves of the transmit agent (R176) -/

/-- The agent has sent the break and its gap (R176 (1)). -/
def breakSent (s : State) : State :=
  { s with mWave := s.mWave ++ drivenBits s (breakIf s.cfg true), mBrk := false, mPhase := .gap }

/-- The agent has sent the frame of `b`, with `q` left in the queue (R176 (2)). -/
def frameSent (b : Byte) (q : List Byte) (s : State) : State :=
  { s with mWave := s.mWave ++ drivenBits s (frameBits b), mTxq := q, mPhase := .frame }

theorem agentMove_break {s : State} (hdir : s.mDir = .tx) (hbrk : s.mBrk = true) : agentMove s = breakSent s :=
  calc agentMove s = sendBreak s := by simp only [agentMove, hdir, hbrk, if_true]
    _ = { driveWave (breakIf s.cfg true) s with mBrk := false, mPhase := .gap } := if_pos hbrk
    _ = breakSent s := by rw [driveWave_eq, breakSent]

theorem agentMove_frame {s : State} {b : Byte} {q : List Byte} (hdir : s.mDir = .tx) (hbrk : s.mBrk = false)
    (hq : s.mTxq = b :: q) : agentMove s = frameSent b q s :=
  calc agentMove s = { driveWave (frameBits b) s with mTxq := q, mPhase := .frame } := by
        simp only [agentMove, hdir, hbrk, hq, Bool.false_eq_true, if_false]
    _ = frameSent b q s := by rw [driveWave_eq, frameSent]

/-- R176 (3): TXC when everything has gone out. -/
theorem agentMove_done {s : State} (hdir : s.mDir = .tx) (hbrk : s.mBrk = false) (hq : s.mTxq = []) :
    agentMove s = completeSending s := by
  simp only [agentMove, hdir, hbrk, hq, Bool.false_eq_true, if_false]

/-- The state `s` with `n` moves of the transmit agent to come. -/
def withShifts (n : Nat) (s : State) : State := { s with inputs := List.replicate n .shift }

theorem run_withShifts {s : State} (hedge : s.edgePend = false) (htick : s.tickPend = false) (n : Nat) :
    Host.Core.run core (n + 1) (withShifts (n + 1) s) = Host.Core.run core n (agentMove (withShifts n s)) := by
  have hstep : core.step (withShifts (n + 1) s) = .next (agentMove (withShifts n s)) := by
    simp [core, step, stepOnce, withShifts, List.replicate_succ, hedge, htick, runInput]
  simp only [Host.Core.run, hstep]

/-- `s` at the end of a transmission in which the logical levels `bits` went out after it (R177). -/
def sentBits (s : State) (bits : List Bool) : State :=
  { s with
    mDir := .rx, mRxSince := 0, mTxq := [], mBrk := false, mPhase := .start, inputs := []
    mWave := s.mWave ++ drivenBits s bits }

theorem sentBits_breakSent (s : State) (bits : List Bool) :
    sentBits (breakSent s) bits = sentBits s (breakIf s.cfg true ++ bits) := by
  simp only [sentBits, breakSent, drivenBits_append, ← List.append_assoc]
  rfl

theorem sentBits_frameSent (b : Byte) (q : List Byte) (s : State) (bits : List Bool) :
    sentBits (frameSent b q s) bits = sentBits s (frameBits b ++ bits) := by
  simp only [sentBits, frameSent, drivenBits_append, ← List.append_assoc]
  rfl

/-- R176 (2), (3): with no break to send, a move a byte and one for TXC. -/
theorem run_frames {s : State} {bs : List Byte} (hedge : s.edgePend = false) (htick : s.tickPend = false)
    (hdir : s.mDir = .tx) (hbrk : s.mBrk = false) (hq : s.mTxq = bs) :
    Host.Core.run core (bs.length + 1) (withShifts (bs.length + 1) s) = .next (sentBits s (bs.flatMap frameBits)) := by
  induction bs generalizing s with
  | nil =>
    have hmove : agentMove (withShifts 0 s) = sentBits s [] := by
      rw [agentMove_done (s := withShifts 0 s) hdir hbrk hq]
      simp [withShifts, completeSending, sentBits, drivenBits, hbrk, hq]
    calc Host.Core.run core 1 (withShifts 1 s) = Host.Core.run core 0 (agentMove (withShifts 0 s)) :=
          run_withShifts hedge htick 0
      _ = .next (sentBits s []) := congrArg _ hmove
  | cons b bs ih =>
    have hmove : agentMove (withShifts (bs.length + 1) s) = withShifts (bs.length + 1) (frameSent b bs s) :=
      agentMove_frame (s := withShifts (bs.length + 1) s) hdir hbrk hq
    calc Host.Core.run core (bs.length + 2) (withShifts (bs.length + 2) s)
        = Host.Core.run core (bs.length + 1) (agentMove (withShifts (bs.length + 1) s)) :=
          run_withShifts hedge htick _
      _ = .next (sentBits (frameSent b bs s) (bs.flatMap frameBits)) := by
          rw [hmove]
          exact ih (s := frameSent b bs s) hedge htick hdir hbrk rfl
      _ = .next (sentBits s ((b :: bs).flatMap frameBits)) := by rw [sentBits_frameSent, List.flatMap_cons]

/-- R176 (1): with a break to send, a move for it before those of the frames. -/
theorem run_break {s : State} {bs : List Byte} (hedge : s.edgePend = false) (htick : s.tickPend = false)
    (hdir : s.mDir = .tx) (hbrk : s.mBrk = true) (hq : s.mTxq = bs) :
    Host.Core.run core (bs.length + 2) (withShifts (bs.length + 2) s) =
      .next (sentBits s (breakIf s.cfg true ++ bs.flatMap frameBits)) := by
  have hmove : agentMove (withShifts (bs.length + 1) s) = withShifts (bs.length + 1) (breakSent s) :=
    agentMove_break (s := withShifts (bs.length + 1) s) hdir hbrk
  calc Host.Core.run core (bs.length + 2) (withShifts (bs.length + 2) s)
      = Host.Core.run core (bs.length + 1) (agentMove (withShifts (bs.length + 1) s)) := run_withShifts hedge htick _
    _ = .next (sentBits (breakSent s) (bs.flatMap frameBits)) := by
        rw [hmove]
        exact run_frames (s := breakSent s) hedge htick hdir rfl hq
    _ = .next (sentBits s (breakIf s.cfg true ++ bs.flatMap frameBits)) := by rw [sentBits_breakSent]

/-- R176: the moves of a whole transmission. -/
theorem run_transmission {s : State} {bs : List Byte} (hedge : s.edgePend = false) (htick : s.tickPend = false)
    (hdir : s.mDir = .tx) (hq : s.mTxq = bs) {n : Nat} (hn : n = (if s.mBrk then 1 else 0) + bs.length + 1) :
    Host.Core.run core n (withShifts n s) = .next (sentBits s (breakIf s.cfg s.mBrk ++ bs.flatMap frameBits)) := by
  cases hbrk : s.mBrk with
  | false =>
    obtain rfl : n = bs.length + 1 := by simp [hn, hbrk]
    exact run_frames hedge htick hdir hbrk hq
  | true =>
    obtain rfl : n = bs.length + 2 := by
      rw [hn, hbrk, if_pos rfl]
      omega
    exact run_break hedge htick hdir hbrk hq

/-- A transmission begun by M.SEND (R175). -/
def beginSending (brk : Bool) (bs : List Byte) (s : State) : State :=
  { s with mDir := .tx, mBrk := brk, mTxq := bs, mWave := [], mPhase := .start, result := .none }

/-- Settles O48: a move for the break where one is asked for, and then the frames. -/
theorem transmitAgentWaveform : Obligations.TransmitAgentWaveform := by
  intro brk bs s hrole hdir hsome hlen hedge htick
  have hsend : exec (.mSend brk bs) s = .next (beginSending brk bs s) :=
    (needMaster_own hrole _).trans (startSending_next.mpr ⟨hdir, hsome, hlen, rfl⟩)
  exact ⟨_, hsend, run_transmission (s := beginSending brk bs s) hedge htick rfl rfl rfl⟩

end Machine

/-! ### Words written out (R84, R85, R87, R90) -/

section Words
open Sys2Proof.Machine Sys2Proof.SpecForm
variable {c c' : Config} {a : Addr} {op : Opcode} {g : Data11}

theorem commandOf_wf (a : Addr) (op : Opcode) (g : Data11) : (commandOf a op g).wf = true := by
  rcases opcode_cases op with rfl | rfl | rfl | rfl | rfl | rfl | rfl | rfl <;> rfl

theorem commandOf_fits (h : c.carries a op g = true) : (commandOf a op g).fits c = true := by
  rcases opcode_cases op with rfl | rfl | rfl | rfl | rfl | rfl | rfl | rfl <;> exact h

/-- R87, R88, R90: a command that the packing carries, decoded from the words of its payloads. -/
theorem decode_commandRequest (hc : Packs c) (h : c.carries a op g = true) :
    decode c (commandRequest c a op g) = .ok (commandOf a op g) := by
  rw [decode, decodeRaw_commandRequest hc h, checked_ok (commandOf_wf a op g) (commandOf_fits h)]

/-- R90: a command word that has a second word, without it. -/
theorem decode_withoutSecondWord (hc : Packs c) (ha : a.toNat < 2 ^ c.addrW) (hwide : op ∈ c.wide) :
    decode c ⟨.cmdw, [(payloadOf c a op g).toNat]⟩ = .error .missingSecondWord := by
  simp [decode, decodeRaw, decodeCommandWord, payloadOp_payloadOf hc ha, hwide, twoWords, checked]

theorem decode_slotOf (b : Byte) : decode c ⟨.line10, [(slotOf b).toNat]⟩ = .ok (.frame10 b) := by
  simp [decode, decodeRaw, checked, Instr.wf, Instr.fits]

theorem decode_break : decode c ⟨.line10, [0]⟩ = .ok .break10 := rfl

/-- R87: two configurations with the same fields in a payload and the same opcodes with a second word. -/
structure SamePacking (c c' : Config) : Prop where
  addrW : c.addrW = c'.addrW
  argW : c.argW = c'.argW
  wide : c.wide = c'.wide

theorem SamePacking.payloadOf (h : SamePacking c c') : payloadOf c a op g = payloadOf c' a op g := by
  simp only [Sys2Proof.payloadOf, h.addrW, h.argW]

theorem SamePacking.packs (h : SamePacking c c') (hc : Packs c') : Packs c := by
  rwa [Packs, h.addrW, h.argW]

/-- The words that one configuration writes for a command, decoded under another of the same packing. -/
theorem SamePacking.decode_commandRequest (h : SamePacking c c') (hc : Packs c') (hcarries : c'.carries a op g = true) :
    decode c (commandRequest c' a op g) = .ok (commandOf a op g) := by
  have hwords : commandRequest c' a op g = commandRequest c a op g := by
    rw [commandRequest, commandRequest, h.payloadOf, h.wide]
  rw [hwords]
  refine Sys2Proof.decode_commandRequest (h.packs hc) ?_
  rw [← hcarries]
  simp only [Config.carries, Config.fitsAddr, h.addrW, h.argW, h.wide]

theorem SamePacking.decode_withoutSecondWord (h : SamePacking c c') (hc : Packs c') (ha : a.toNat < 2 ^ c'.addrW)
    (hwide : op ∈ c'.wide) : decode c ⟨.cmdw, [(Sys2Proof.payloadOf c' a op g).toNat]⟩ = .error .missingSecondWord := by
  rw [← h.payloadOf]
  exact Sys2Proof.decode_withoutSecondWord (h.packs hc) (h.addrW ▸ ha) (h.wide ▸ hwide)

end Words

/-- Settles O56: each word is what the encoder writes for its instruction, under the spec's packing in `Config.default`
and under that of fields 6, 3 and 2 bits wide. -/
theorem writtenOutWordsDecode : Obligations.WrittenOutWordsDecode := by
  intro c
  constructor
  · rintro ⟨haddr, harg, -, hwide, -⟩
    have hsame : SamePacking c Config.default := ⟨haddr, harg, hwide⟩
    exact ⟨hsame.decode_commandRequest (a := 5) (op := 0) (g := 0) rfl (by decide),
      hsame.decode_commandRequest (a := 0xAA) (op := 1) (g := 2) rfl (by decide),
      hsame.decode_commandRequest (a := 0xAA) (op := 5) (g := 0) rfl (by decide),
      decode_slotOf 0x0A, decode_break,
      hsame.decode_withoutSecondWord (a := 0xAA) (op := 1) (g := 0) rfl (by decide) (by decide)⟩
  · intro haddr harg hwide
    have hsame : SamePacking c { Config.default with addrW := 6, argW := 2 } := ⟨haddr, harg, hwide⟩
    exact hsame.decode_commandRequest (a := 5) (op := 0) (g := 2) rfl (by decide)

end Sys2Proof
end

section
/-! Proofs: unit HAM (40_hamming.md). Each syndrome bit is a sum over code positions; the codewords are the words of
syndrome 0 and parity 0; a flipped bit adds its position to the syndrome and 1 to the parity. -/

namespace Sys2Proof
namespace Machine
open Sys2Proof.SpecForm

/-! ### Syndrome, parity and data by code position (R83, R110, R111, R114, R116) -/

/-- R83: the mask of a syndrome bit. -/
def syndromeMask (k : Nat) : Word16 := [0x5555#16, 0x6666#16, 0x7878#16, 0x7F80#16].getD k 0

theorem getLsbD_syndrome (c : Word16) {k : Nat} (hk : k < 4) :
    (syndrome c).getLsbD k = xorall (c &&& syndromeMask k) := by
  refine BitVec.getLsbD_append.trans ?_
  simp only [BitVec.getLsbD_append]
  interval_cases k <;> simp [syndromeMask]

/-- The parity of a masked word runs over the bits of the mask. -/
theorem xorall_and {n : Nat} (v m : BitVec n) :
    xorall (v &&& m) = ((List.range n).filter m.getLsbD).foldl (fun p i => p ^^ v.getLsbD i) false := by
  rw [List.foldl_filter, xorall]
  congr 1
  funext p i
  cases hm : m.getLsbD i <;> simp [hm]

/-- R83, R111: the bits of a mask are the positions that have the syndrome bit set. -/
theorem range_filter_syndromeMask : ∀ k < 4, (List.range 16).filter (syndromeMask k).getLsbD =
    ((List.range' 1 15).filter (fun p => p.testBit k)).map (· - 1) := by
  decide

theorem syndrome_by_position (c : Word16) {k : Nat} (hk : k < 4) : (syndrome c).getLsbD k =
    ((List.range' 1 15).filter (fun p => p.testBit k)).foldl (fun x p => x ^^ c.getLsbD (p - 1)) false := by
  rw [getLsbD_syndrome c hk, xorall_and, range_filter_syndromeMask k hk, List.foldl_map]

theorem extractData_by_position (c : Word16) {j : Nat} (hj : j < 11) :
    (extractData c).getLsbD (10 - j) = c.getLsbD (dataPos.getD j 0 - 1) := by
  rw [getLsbD_extractData c (show 10 - j < 11 by omega)]
  interval_cases j <;> rfl

/-- Settles O3: the parity is by position as it is defined. -/
theorem syndromeParityAndExtractByPosition : Obligations.SyndromeParityAndExtractByPosition := fun c =>
  ⟨fun _ hk => syndrome_by_position c hk, rfl, fun _ hj => extractData_by_position c hj⟩

/-! ### The codewords are the words of syndrome 0 and parity 0 (R112) -/

theorem getLsbD_checkWord (s : BitVec 4) (p : Bool) : ∀ i < 16, (checkWord s p).getLsbD i =
    [s.getLsbD 0, s.getLsbD 1, false, s.getLsbD 2, false, false, false, s.getLsbD 3, false, false, false, false, false,
      false, false, p].getD i false := by
  revert s p; decide

/-- R110: the check bits that a word holds at `PAR_POS`. -/
def checkBits (c : Word16) : BitVec 4 :=
  BitVec.ofBool (c.getLsbD 7) ++ BitVec.ofBool (c.getLsbD 3) ++ BitVec.ofBool (c.getLsbD 1) ++
    BitVec.ofBool (c.getLsbD 0)

theorem getLsbD_checkBits (c : Word16) {k : Nat} (hk : k < 4) : (checkBits c).getLsbD k = c.getLsbD (2 ^ k - 1) := by
  refine BitVec.getLsbD_append.trans ?_
  simp only [BitVec.getLsbD_append]
  interval_cases k <;> simp

/-- R82, R110: a word is its data bits and its check bits. -/
theorem eq_placeData_xor_checkWord (c : Word16) :
    c = placeData (extractData c) ^^^ checkWord (checkBits c) (c.getLsbD 15) := by
  ext i hi
  rw [← BitVec.getLsbD_eq_getElem hi, ← BitVec.getLsbD_eq_getElem hi, BitVec.getLsbD_xor, getLsbD_placeData,
    getLsbD_checkWord _ _ i hi]
  interval_cases i <;> simp [getLsbD_extractData, getLsbD_checkBits, -BitVec.getLsbD_eq_getElem]

/-- R112: a word of syndrome 0 and parity 0 is the codeword of its data, as these fix its check bits. -/
theorem eq_hamEncode {c : Word16} {d : Data11} (hs : syndrome c = 0) (hp : wordParity c = false)
    (hd : extractData c = d) : c = hamEncode d := by
  have hsplit := eq_placeData_xor_checkWord c
  rw [hd] at hsplit
  have hbits : syndrome (placeData d) = checkBits c := BitVec.xor_eq_zero_iff.mp <| by
    rw [← syndrome_checkWord (checkBits c) (c.getLsbD 15), ← syndrome_xor, ← hsplit, hs]
    rfl
  have hsum : (xorall (placeParity (placeData d)) ^^ c.getLsbD 15) = false := by
    rw [placeParity_placeData, xorall_xor, Bool.xor_assoc, hbits, ← xorall_checkWord, ← xorall_xor, ← hsplit]
    exact hp
  rw [hamEncode_eq, hbits, bne_eq_false_iff_eq.mp hsum]
  exact hsplit

/-! ### The closed form of the encoder (R113) -/

/-- The bits of a word that is written out, bit 15 first. -/
theorem getLsbD_append_ofBool (b0 b1 b2 b3 b4 b5 b6 b7 b8 b9 b10 b11 b12 b13 b14 b15 : Bool) {i : Nat} (hi : i < 16) :
    (BitVec.ofBool b15 ++ BitVec.ofBool b14 ++ BitVec.ofBool b13 ++ BitVec.ofBool b12 ++ BitVec.ofBool b11 ++
      BitVec.ofBool b10 ++ BitVec.ofBool b9 ++ BitVec.ofBool b8 ++ BitVec.ofBool b7 ++ BitVec.ofBool b6 ++
      BitVec.ofBool b5 ++ BitVec.ofBool b4 ++ BitVec.ofBool b3 ++ BitVec.ofBool b2 ++ BitVec.ofBool b1 ++
      BitVec.ofBool b0).getLsbD i =
    [b0, b1, b2, b3, b4, b5, b6, b7, b8, b9, b10, b11, b12, b13, b14, b15].getD i false := by
  simp only [BitVec.getLsbD_append]
  interval_cases i <;> simp

theorem extractData_closedForm (d : Data11) : extractData (closedForm d) = d := by
  ext i hi
  rw [← BitVec.getLsbD_eq_getElem hi, ← BitVec.getLsbD_eq_getElem hi, getLsbD_extractData _ hi]
  interval_cases i <;> exact getLsbD_append_ofBool (hi := by decide) ..

/-- R83: the positions that `COVER_k` lists. -/
theorem range'_filter_testBit : ∀ k < 4, (List.range' 1 15).filter (fun p => p.testBit k) =
    [[1, 3, 5, 7, 9, 11, 13, 15], [2, 3, 6, 7, 10, 11, 14, 15], [4, 5, 6, 7, 12, 13, 14, 15],
      [8, 9, 10, 11, 12, 13, 14, 15]].getD k [] := by
  decide

/-- R113: `P1`, `P2`, `P4` and `P8`, the syndrome of the placed data. -/
theorem getLsbD_syndrome_placeData (d : Data11) {k : Nat} (hk : k < 4) : (syndrome (placeData d)).getLsbD k =
    [d.getLsbD 10 ^^ d.getLsbD 9 ^^ d.getLsbD 7 ^^ d.getLsbD 6 ^^ d.getLsbD 4 ^^ d.getLsbD 2 ^^ d.getLsbD 0,
      d.getLsbD 10 ^^ d.getLsbD 8 ^^ d.getLsbD 7 ^^ d.getLsbD 5 ^^ d.getLsbD 4 ^^ d.getLsbD 1 ^^ d.getLsbD 0,
      d.getLsbD 9 ^^ d.getLsbD 8 ^^ d.getLsbD 7 ^^ d.getLsbD 3 ^^ d.getLsbD 2 ^^ d.getLsbD 1 ^^ d.getLsbD 0,
      d.getLsbD 6 ^^ d.getLsbD 5 ^^ d.getLsbD 4 ^^ d.getLsbD 3 ^^ d.getLsbD 2 ^^ d.getLsbD 1 ^^ d.getLsbD 0].getD k
      false := by
  rw [syndrome_by_position _ hk, range'_filter_testBit k hk]
  interval_cases k <;> simp [getLsbD_placeData, -BitVec.getLsbD_eq_getElem]

theorem checkBits_closedForm (d : Data11) : checkBits (closedForm d) = syndrome (placeData d) := by
  ext k hk
  rw [← BitVec.getLsbD_eq_getElem hk, ← BitVec.getLsbD_eq_getElem hk, getLsbD_checkBits _ hk,
    getLsbD_syndrome_placeData d hk]
  interval_cases k <;> exact getLsbD_append_ofBool (hi := by decide) ..

/-- R82: the placed data bits stand in reverse order. -/
theorem xorall_placeData (d : Data11) : xorall (placeData d) = xorall d := by
  have hplaced : xorall (placeData d) = (List.range 11).reverse.foldl (fun p i => p ^^ d.getLsbD i) false := by
    simp [xorall, getLsbD_placeData, List.range_succ, -BitVec.getLsbD_eq_getElem]
  rw [hplaced, xorall]
  exact (List.reverse_perm _).foldl_eq' (f := fun p i => p ^^ d.getLsbD i)
    (fun _ _ _ _ _ => Bool.xor_right_comm _ _ _) false

theorem xorall_checkWord_eq (s : BitVec 4) (p : Bool) : xorall (checkWord s p) = (xorall s ^^ p) := by
  revert s p; decide

/-- R113: `Q = P1^P2^P4^P8^xorall(d)`. -/
theorem getLsbD_closedForm_overall (d : Data11) :
    (closedForm d).getLsbD 15 = (xorall (checkBits (closedForm d)) ^^ xorall d) := by
  simp [xorall, List.range_succ, getLsbD_checkBits, closedForm, getLsbD_append_ofBool, -BitVec.getLsbD_eq_getElem]

/-- R112, R113: the encoder writes the closed form. -/
theorem hamEncode_eq_closedForm (d : Data11) : hamEncode d = closedForm d := by
  have hoverall : (closedForm d).getLsbD 15 = xorall (placeParity (placeData d)) := by
    rw [getLsbD_closedForm_overall, checkBits_closedForm, placeParity_placeData, xorall_xor, xorall_placeData,
      xorall_checkWord_eq, Bool.xor_false, Bool.xor_comm]
  rw [eq_placeData_xor_checkWord (closedForm d), extractData_closedForm, checkBits_closedForm, hoverall,
    ← hamEncode_eq]

/-- Settles O1: the encoder's word is the closed form. -/
theorem hamEncGivesClosedForm : Obligations.HamEncGivesClosedForm := by
  intro d s
  rw [← hamEncode_eq_closedForm]
  rfl

/-! ### The decision table (R115, R117) -/

section DecisionTable
variable {c : Word16}

theorem hamDecode_accepted (hs : syndrome c = 0) (hp : wordParity c = false) : hamDecode c = .ok (extractData c) :=
  if_pos ⟨hs, hp⟩

theorem hamDecode_corrected (hs : syndrome c ≠ 0) (hp : wordParity c = true) :
    hamDecode c = .ok (extractData (c ^^^ oneBit ((syndrome c).toNat - 1))) :=
  (if_neg fun h => hs h.1).trans (if_pos ⟨hs, hp⟩)

theorem hamDecode_rejected (h : syndrome c = 0 ↔ wordParity c = true) :
    hamDecode c = .error (.decodeError (syndrome c) (wordParity c)) :=
  (if_neg fun ⟨hs, hp⟩ => by simp [h.mp hs] at hp).trans (if_neg fun ⟨hs, hp⟩ => hs (h.mpr hp))

theorem exec_hamDec_ok {d : Data11} (h : hamDecode c = .ok d) (s : State) :
    exec (.hamDec c) s = .next { s with result := .data d } := by
  change execHamDec c s = _
  rw [execHamDec, h]
  rfl

theorem exec_hamDec_error {e : Exc} (h : hamDecode c = .error e) (s : State) :
    exec (.hamDec c) s = .next { s with result := .exception e } := by
  change execHamDec c s = _
  rw [execHamDec, h]
  rfl

theorem exec_hamDec_rejected {syn : BitVec 4} {p : Bool} (hs : syndrome c = syn) (hp : wordParity c = p)
    (h : syn = 0 ↔ p = true) (s : State) :
    exec (.hamDec c) s = .next { s with result := .exception (.decodeError syn p) } := by
  subst hs hp
  exact exec_hamDec_error (hamDecode_rejected h) s

end DecisionTable

/-- Settles O2: the rows of the table are the branches of the decoder. -/
theorem hamDecFollowsDecisionTable : Obligations.HamDecFollowsDecisionTable := fun _ s =>
  ⟨fun hs hp => exec_hamDec_ok (hamDecode_accepted hs hp) s,
    fun hs hp => exec_hamDec_ok (hamDecode_corrected hs hp) s,
    fun hs hp => exec_hamDec_rejected hs hp (by decide) s,
    fun hs hp => exec_hamDec_rejected rfl hp (by simpa using hs) s⟩

/-- Settles O4: row 1 of the table on a codeword. -/
theorem hamEncodeThenDecodeIsIdentity : Obligations.HamEncodeThenDecodeIsIdentity := fun d s =>
  ⟨syndrome_hamEncode d, wordParity_hamEncode d, exec_hamDec_ok (hamDecode_hamEncode d) s⟩

/-! ### Flipped bits (R118, R119) -/

/-- A flipped bit adds its position to the syndrome; bit 15, position 16, adds nothing. -/
theorem syndrome_oneBit : ∀ k < 16, syndrome (oneBit k) = BitVec.ofNat 4 (k + 1) := by
  decide

theorem wordParity_oneBit : ∀ k < 16, wordParity (oneBit k) = true := by
  decide

theorem syndrome_xor_oneBit (c : Word16) {k : Nat} (hk : k < 16) :
    syndrome (c ^^^ oneBit k) = syndrome c ^^^ BitVec.ofNat 4 (k + 1) := by
  rw [syndrome_xor, syndrome_oneBit k hk]

theorem wordParity_xor_oneBit (c : Word16) {k : Nat} (hk : k < 16) : wordParity (c ^^^ oneBit k) = !wordParity c := by
  rw [wordParity, xorall_xor, ← wordParity, ← wordParity, wordParity_oneBit k hk, Bool.xor_true]

theorem getLsbD_oneBit {k i : Nat} (hi : i < 16) : (oneBit k).getLsbD i = decide (k = i) := by
  refine (BitVec.getLsbD_twoPow k i).trans ?_
  rcases eq_or_ne k i with rfl | hne
  · simp [hi]
  · simp [hne]

/-- R118: the syndrome and the parity of a codeword with one flipped bit. -/
theorem syndrome_hamEncode_xor_oneBit (d : Data11) {k : Nat} (hk : k < 16) :
    syndrome (hamEncode d ^^^ oneBit k) = BitVec.ofNat 4 (k + 1) := by
  rw [syndrome_xor_oneBit _ hk, syndrome_hamEncode]
  exact BitVec.zero_xor

theorem wordParity_hamEncode_xor_oneBit (d : Data11) {k : Nat} (hk : k < 16) :
    wordParity (hamEncode d ^^^ oneBit k) = true := by
  rw [wordParity_xor_oneBit _ hk, wordParity_hamEncode, Bool.not_false]

/-- R118 (d): no two positions have the same number modulo 16. -/
theorem position_injective {j k : Nat} (hj : j < 16) (hk : k < 16)
    (h : BitVec.ofNat 4 (j + 1) = BitVec.ofNat 4 (k + 1)) : j = k := by
  have hnat := congrArg BitVec.toNat h
  simp only [BitVec.toNat_ofNat] at hnat
  omega

/-- R115: the bit that a nonzero syndrome names is one of the bits 0 to 14, and its position is the syndrome. -/
theorem position_of_syndrome {s : BitVec 4} (hs : s ≠ 0) :
    s.toNat - 1 < 15 ∧ BitVec.ofNat 4 (s.toNat - 1 + 1) = s := by
  have hpos : s.toNat ≠ 0 := fun h => hs (BitVec.eq_of_toNat_eq h)
  have hlt := s.isLt
  exact ⟨by omega, by rw [Nat.sub_add_cancel (Nat.pos_of_ne_zero hpos), BitVec.ofNat_toNat, BitVec.setWidth_eq]⟩

/-- R115: what row 2 extracts from is a codeword. -/
theorem corrected_is_codeword {c : Word16} (hs : syndrome c ≠ 0) (hp : wordParity c = true) :
    c ^^^ oneBit ((syndrome c).toNat - 1) = hamEncode (extractData (c ^^^ oneBit ((syndrome c).toNat - 1))) := by
  obtain ⟨hlt, hpos⟩ := position_of_syndrome hs
  refine eq_hamEncode ?_ ?_ rfl
  · rw [syndrome_xor_oneBit c (by omega), hpos]
    exact BitVec.xor_self
  · rw [wordParity_xor_oneBit c (by omega), hp, Bool.not_true]

/-- R118 (b): one flipped bit below position 16 is flipped back. -/
theorem hamDecode_one_flipped (d : Data11) {k : Nat} (hk : k < 15) : hamDecode (hamEncode d ^^^ oneBit k) = .ok d := by
  have hk' : k < 16 := by omega
  have hs : (syndrome (hamEncode d ^^^ oneBit k)).toNat = k + 1 := by
    rw [syndrome_hamEncode_xor_oneBit d hk', BitVec.toNat_ofNat]
    omega
  have hne : syndrome (hamEncode d ^^^ oneBit k) ≠ 0 := fun h => by simp [h] at hs
  rw [hamDecode_corrected hne (wordParity_hamEncode_xor_oneBit d hk'), hs, Nat.add_sub_cancel, BitVec.xor_assoc,
    BitVec.xor_self, BitVec.xor_zero, extractData_hamEncode]

/-- R118 (d): two flipped bits leave the parity 0 and the sum of their positions nonzero. -/
theorem exec_hamDec_two_flipped (d : Data11) (s : State) {j k : Nat} (hjk : j < k) (hk : k < 16) :
    exec (.hamDec (hamEncode d ^^^ oneBit j ^^^ oneBit k)) s = .next { s with
      result := .exception (.decodeError (BitVec.ofNat 4 (j + 1) ^^^ BitVec.ofNat 4 (k + 1)) false) } := by
  have hj : j < 16 := by omega
  refine exec_hamDec_rejected ?_ ?_ ?_ s
  · rw [syndrome_xor_oneBit _ hk, syndrome_hamEncode_xor_oneBit d hj]
  · rw [wordParity_xor_oneBit _ hk, wordParity_hamEncode_xor_oneBit d hj, Bool.not_true]
  · simpa [BitVec.xor_eq_zero_iff] using fun h => hjk.ne (position_injective hj hk h)

/-- Settles O5: one flipped bit is row 2 or, at position 16, row 3; two are row 4. -/
theorem hamDecOneAndTwoFlippedBits : Obligations.HamDecOneAndTwoFlippedBits := fun d s =>
  ⟨fun _ hk => exec_hamDec_ok (hamDecode_one_flipped d hk) s,
    exec_hamDec_rejected (syndrome_hamEncode_xor_oneBit d (by decide)) (wordParity_hamEncode_xor_oneBit d (by decide))
      (by decide) s,
    fun _ _ hjk hk => ⟨_, exec_hamDec_two_flipped d s hjk hk⟩⟩

/-- Three different bits flipped are not undone by flipping one: it would be both of the first two. -/
theorem three_flips_not_undone (c : Word16) {i j k : Nat} (hij : i < j) (hjk : j < k) (hk : k < 16) (m : Nat) :
    c ^^^ oneBit i ^^^ oneBit j ^^^ oneBit k ^^^ oneBit m ≠ c := by
  intro h
  have hbit {n : Nat} (hn : n < 16) :
      (c.getLsbD n ^^ decide (i = n) ^^ decide (j = n) ^^ decide (k = n) ^^ decide (m = n)) = c.getLsbD n := by
    simp only [← getLsbD_oneBit hn, ← BitVec.getLsbD_xor, h]
  have hi : m = i := by
    by_contra hne
    simpa [hij.ne', (hij.trans hjk).ne', hne] using hbit (n := i) (by omega)
  have hj : m = j := by
    by_contra hne
    simpa [hij.ne, hjk.ne', hne] using hbit (n := j) (by omega)
  omega

/-- Settles O6: what row 2 extracts from is a codeword, and not the one that was sent. -/
theorem hamDecThreeFlippedBitsNeverRight : Obligations.HamDecThreeFlippedBitsNeverRight := by
  intro d s i j k hij hjk hk w
  have hp : wordParity w = true := by
    rw [wordParity_xor_oneBit _ hk, wordParity_xor_oneBit _ (by omega), wordParity_hamEncode_xor_oneBit d (by omega)]
    rfl
  by_cases hs : syndrome w = 0
  · exact .inl ⟨hs, exec_hamDec_rejected hs hp (by decide) s⟩
  · refine .inr ⟨hs, _, fun hright => ?_, exec_hamDec_ok (hamDecode_corrected hs hp) s⟩
    have hword := corrected_is_codeword hs hp
    rw [hright] at hword
    exact three_flips_not_undone _ hij hjk hk _ hword

end Machine
end Sys2Proof
end

section
/-! Proofs: the module's serial unit, event by event: the wake at a change of the level (R281), the edge detector
(R132), the ticks of a slot and of a transmission (R133 to R137, R149, R150), and what is outside an operation's
precondition (R148, R175, R178, R265). -/

namespace Sys2Proof
namespace Machine
open Sys2Proof.SpecForm

/-! ### The wake of a sleeping host at a change of the level (R281) -/

section Wake
variable (s t : State) (v : Bool)

@[simp] theorem wokenBy_rxAcc : (wokenBy s v t).rxAcc = t.rxAcc := by unfold wokenBy; split <;> rfl
@[simp] theorem wokenBy_rxbuf : (wokenBy s v t).rxbuf = t.rxbuf := by unfold wokenBy; split <;> rfl

end Wake

theorem wakeOnChange_eq_wokenBy {s t : State} (v : Bool) (hasleep : t.asleep = s.asleep) :
    wakeOnChange s.lineIn v t = wokenBy s v t := by
  by_cases hwake : s.asleep = true ∧ v ≠ s.lineIn
  · obtain ⟨hs, hv⟩ := hwake
    rw [wakeOnChange_wakes (hasleep.trans hs) hv, wokenBy, if_pos ⟨hs, hv⟩]
  · have hsame : t.asleep = false ∨ v = s.lineIn := by
      rw [hasleep]
      grind
    rw [wakeOnChange_same hsame, wokenBy, if_neg hwake]

/-- What does not look at the host's sleep and does not write it may come before the wake or after it. -/
theorem apply_wokenBy {f : State → State}
    (hf : ∀ t, f { t with asleep := false, polDetected := false } = { f t with asleep := false, polDetected := false })
    (s : State) (v : Bool) (t : State) : f (wokenBy s v t) = wokenBy s v (f t) := by
  unfold wokenBy
  split
  · exact hf t
  · rfl

theorem driveLine_eq (v : Bool) (s : State) :
    driveLine v s = wokenBy s v { s with lineOe := true, lineOut := v, lineIn := v, linePrev := s.logical v } :=
  wakeOnChange_eq_wokenBy v rfl

theorem releaseLine_eq (s : State) :
    releaseLine s = wokenBy s s.cfg.lineOne
      { s with lineOe := false, lineIn := s.cfg.lineOne, linePrev := s.logical s.cfg.lineOne } :=
  wakeOnChange_eq_wokenBy s.cfg.lineOne rfl

/-! ### The edge detector (R130, R132, R133) -/

theorem edgeEnabled_eq_false {s : State} (h : s.rxFsm ≠ .waitEdge ∨ s.txBusy = true) : s.edgeEnabled = false := by
  rw [Bool.eq_false_iff, ne_eq, edgeEnabled_iff]
  grind

/-- R132: where no EDGE is enabled the detector only remembers the level. -/
theorem presentLevel_unarmed {s : State} (v : Bool) (hpol : s.polDetected = true) (harmed : s.edgeEnabled = false) :
    presentLevel v s = wokenBy s v { s with lineIn := v, linePrev := s.logical v } := by
  rw [presentLevel, detectEdge_detected hpol, harmed, Bool.and_false, Bool.or_false]
  exact wakeOnChange_eq_wokenBy v rfl

theorem step_line {s : State} {v : Bool} {rest : List Input} (hedge : s.edgePend = false) (htick : s.tickPend = false)
    (hin : s.inputs = .line v :: rest) : step s = lineInput v { s with inputs := rest } := by
  simp [step, stepOnce, hedge, htick, hin, runInput]

theorem raisesEdge_eq (s : State) (v : Bool) :
    (fallingEdge s.linePrev (s.logical v) && s.edgeEnabled) =
      decide (s.linePrev = true ∧ s.logical v = false ∧ s.rxFsm = .waitEdge ∧ s.txBusy = false) := by
  rw [Bool.eq_iff_iff, decide_eq_true_iff, Bool.and_eq_true, edgeEnabled_iff, fallingEdge, Bool.and_eq_true,
    Bool.not_eq_true', and_assoc]

/-- R132: the detector of an awake host with nothing raised. -/
theorem presentLevel_quiet {s : State} (v : Bool) (hpol : s.polDetected = true) (hawake : s.asleep = false)
    (hedge : s.edgePend = false) :
    presentLevel v s = { s with
      lineIn := v, linePrev := s.logical v
      edgePend := decide (s.linePrev = true ∧ s.logical v = false ∧ s.rxFsm = .waitEdge ∧ s.txBusy = false) } := by
  rw [presentLevel_detected hpol hawake, raisesEdge_eq, hedge, Bool.false_or]

/-- Settles O53: the level is the next input, and this block does not drive against it. -/
theorem edgeDetectorRaisesOnFallingLevel : Obligations.EdgeDetectorRaisesOnFallingLevel := by
  intro s v rest hready hawake hedge htick hin hdriven
  rw [step_line hedge htick hin, lineInput_next]
  exact ⟨hdriven, (presentLevel_quiet (s := { s with inputs := rest }) v hready.2 hawake hedge).symm⟩

/-- Settles O29. -/
theorem polDetectTakesTheIdleLevel : Obligations.PolDetectTakesTheIdleLevel :=
  fun _ hrole => needModule_own hrole _

/-- Settles O30: the handler asks whether EDGE is enabled, and an awake host has nothing to be woken from. -/
theorem edgeStartsASlotOnlyWhenArmed : Obligations.EdgeStartsASlotOnlyWhenArmed := by
  intro s hready hawake
  have hexec : exec .edge s = .next (takeEdge s) := needSer_ready hready _
  constructor
  · intro hfsm hbusy
    rw [hexec, takeEdge_enabled (edgeEnabled_iff.mpr ⟨hfsm, hbusy⟩), wakeHost_awake hawake]
  · intro hoff
    rw [hexec, takeEdge_disabled (edgeEnabled_eq_false hoff), wakeHost_awake hawake]

/-! ### The samples of a slot (R135 to R137) -/

/-- What the sample of a TICK does in every case, but for the wake: the clock is reloaded (R134) and the level is
remembered. -/
def sampled (v : Bool) (s : State) : State :=
  { s with clkCnt := s.cfg.bitTicks, tickPend := false, lineIn := v, linePrev := (v == s.pol) }

section Slot
variable {s : State} (v : Bool)

/-- Inside a slot a sample raises no EDGE. -/
theorem presentLevel_beginTick (hready : SerReady s) (hslot : s.rxFsm ≠ .waitEdge) :
    presentLevel v (beginTick s) = wokenBy s v (sampled v s) :=
  presentLevel_unarmed (s := beginTick s) v hready.2 (edgeEnabled_eq_false (.inl hslot))

theorem startSample_eq (hready : SerReady s) (hslot : s.rxFsm ≠ .waitEdge) :
    startSample v s = wokenBy s v { sampled v s with rxAcc := 0, rxBitcnt := 0, rxFsm := .receiving } := by
  rw [startSample, presentLevel_beginTick v hready hslot]
  exact apply_wokenBy (f := fun t => { t with rxAcc := 0, rxBitcnt := 0, rxFsm := .receiving }) (fun _ => rfl) s v _

theorem dataSample_eq (hready : SerReady s) (hslot : s.rxFsm ≠ .waitEdge) :
    dataSample v s = wokenBy s v { sampled v s with
      rxAcc := setBit s.rxAcc s.rxBitcnt (v == s.pol), rxBitcnt := s.rxBitcnt + 1 } := by
  rw [dataSample, presentLevel_beginTick v hready hslot]
  exact apply_wokenBy (f := fun t => { t with
    rxAcc := setBit s.rxAcc s.rxBitcnt (s.logical v), rxBitcnt := s.rxBitcnt + 1 }) (fun _ => rfl) s v _

/-- The disposal of a slot does not look at the host's sleep. -/
theorem disposeSlot_wokenBy (b : Bool) (s : State) (t : State) :
    disposeSlot b (wokenBy s v t) = wokenBy s v (disposeSlot b t) := by
  refine apply_wokenBy (fun t => ?_) s v t
  by_cases hbreak : t.rxAcc = 0 ∧ b = false
  · rw [disposeSlot_break hbreak]
    exact disposeSlot_break hbreak
  · rw [disposeSlot_byte hbreak]
    refine (disposeSlot_byte (s := { t with asleep := false, polDetected := false }) hbreak).trans ?_
    rcases Nat.lt_or_ge t.rxCount t.cfg.rxbufLen with hroom | hfull
    · rw [storeReceived_room _ hroom]
      exact storeReceived_room _ hroom
    · rw [storeReceived_full _ hfull]
      exact storeReceived_full _ hfull

theorem stopSample_eq (hready : SerReady s) (hslot : s.rxFsm ≠ .waitEdge) :
    stopSample v s = wokenBy s v (stopClock (disposeSlot (v == s.pol) (sampled v s))) := by
  have hstop : stopSample v s = stopClock (disposeSlot (v == s.pol) (presentLevel v (beginTick s))) := rfl
  rw [hstop, presentLevel_beginTick v hready hslot, disposeSlot_wokenBy]
  exact apply_wokenBy (f := stopClock) (fun _ => rfl) s v _

end Slot

/-- Settles O31: the state presents the case of its bit count, and the accumulator changes in that bit alone. -/
theorem tickSamplesStartAndDataBits : Obligations.TickSamplesStartAndDataBits := by
  intro v s hready hrun hbusy
  constructor
  · intro hfsm
    have hcase : s.tickCase = some .rxStart := tickCase_eq_some_iff.mpr ⟨hrun, by simp [hbusy, hfsm]⟩
    exact tickOf_next.mpr ⟨hready.1, hready.2, hcase, (startSample_eq v hready (by simp [hfsm])).symm⟩
  · intro hfsm hcnt
    have hcase : s.tickCase = some .rxData := tickCase_eq_some_iff.mpr ⟨hrun, by simp [hbusy, hfsm, hcnt]⟩
    refine ⟨_, tickOf_next.mpr ⟨hready.1, hready.2, hcase, (dataSample_eq v hready (by simp [hfsm])).symm⟩, ?_,
      fun k hk => ?_⟩
    · rw [wokenBy_rxAcc]
      rfl
    · rw [wokenBy_rxAcc]
      exact getLsbD_setBit _ hk

theorem completeAfterStore_eq (was : Bool) (n len : Nat) :
    completeAfterStore was n len = if n = len then true else was := by
  by_cases h : n = len <;> simp [completeAfterStore, h]

/-- R137: RXBUF after one byte is written at offset `n`. -/
theorem readByte_rxbuf_write {s t : State} {n : Nat} {b : Byte} (h : t.rxbuf = s.rxbuf.write n b) (a : Nat) :
    t.readByte .rxbuf a = if a = n then b else s.readByte .rxbuf a := by
  by_cases ha : a = n <;> simp [State.readByte, State.buffer, h, Memory.cell_write, ha]

/-- Settles O32: the slot is a break, or a byte for which RXBUF has room, or a byte that is dropped. -/
theorem stopBitTickDisposesOfTheSlot : Obligations.StopBitTickDisposesOfTheSlot := by
  intro v s hready hrun hbusy hfsm hcnt b
  have hcase : s.tickCase = some .rxStop := tickCase_eq_some_iff.mpr ⟨hrun, by simp [hbusy, hfsm, hcnt]⟩
  have hbyte : s.rxAcc ≠ 0 ∨ b = true → ¬ ((sampled v s).rxAcc = 0 ∧ b = false) := by
    rintro (hacc | hb) ⟨hzero, hlow⟩
    · exact hacc hzero
    · rw [hb] at hlow; cases hlow
  refine ⟨_, tickOf_next.mpr ⟨hready.1, hready.2, hcase, (stopSample_eq v hready (by simp [hfsm])).symm⟩, ?_, ?_, ?_⟩
  · intro hacc hb
    rw [disposeSlot_break (s := sampled v s) ⟨hacc, hb⟩]
    rfl
  · intro hdata hroom
    rw [disposeSlot_byte (hbyte hdata), storeReceived_room (s := sampled v s) _ hroom, completeAfterStore_eq]
    refine ⟨?_, readByte_rxbuf_write (wokenBy_rxbuf _ _ _)⟩
    rw [wokenBy_rxbuf]
    rfl
  · intro hdata hfull
    rw [disposeSlot_byte (hbyte hdata), storeReceived_full (s := sampled v s) _ hfull]
    rfl

/-! ### The ticks of a transmission (R149, R150) -/

/-- R149, by the stop bit's place. -/
theorem txBit_eq (s : State) (t : Nat) :
    s.txBit t = if t % 10 = 0 then false
      else if t % 10 = 9 then true else (s.readByte .txbuf (t / 10)).getLsbD (t % 10 - 1) := by
  unfold State.txBit
  grind

theorem driveTick_eq (b : Bool) (s : State) :
    driveTick b s = wokenBy s (s.elec b) { s with
      txTick := s.txTick + 1, clkCnt := s.cfg.bitTicks, tickPend := false
      lineOe := true, lineOut := s.elec b, lineIn := s.elec b, linePrev := b } := by
  have hlevel : (beginTick s).logical (s.elec b) = b := logical_elec s b
  rw [driveTick, driveLine_eq, hlevel]
  exact apply_wokenBy (f := fun t => { t with txTick := s.txTick + 1 }) (fun _ => rfl) s (s.elec b) _

/-- The transmit tick that releases the line and ends the transmission (R150). -/
def releaseTick (s : State) : State :=
  { releaseLine (beginTick s) with txBusy := false, clkRun := false, txTick := s.txTick + 1 }

theorem releaseTick_eq (s : State) :
    releaseTick s = wokenBy s s.cfg.lineOne { s with
      txTick := s.txTick + 1, clkCnt := s.cfg.bitTicks, tickPend := false
      lineOe := false, txBusy := false, clkRun := false
      lineIn := s.cfg.lineOne, linePrev := (s.cfg.lineOne == s.pol) } := by
  rw [releaseTick, releaseLine_eq]
  exact apply_wokenBy (f := fun t => { t with txBusy := false, clkRun := false, txTick := s.txTick + 1 })
    (fun _ => rfl) s s.cfg.lineOne _

/-- R150: what a transmit tick does, by where its number lies. -/
theorem transmitTick_cases (s : State) :
    (s.txTick < 10 * s.txLen ∧ transmitTick s = driveTick (s.txBit s.txTick) s) ∨
    (10 * s.txLen ≤ s.txTick ∧ s.txTick + 1 < 10 * s.txLen + s.cfg.turnaround ∧ transmitTick s = driveTick true s) ∨
    (10 * s.txLen ≤ s.txTick ∧ 10 * s.txLen + s.cfg.turnaround ≤ s.txTick + 1 ∧ transmitTick s = releaseTick s) := by
  have htotal : (beginTick s).txTotal = 10 * s.txLen + s.cfg.turnaround := rfl
  have htick : (beginTick s).txTick = s.txTick := rfl
  obtain ⟨hframe, heq⟩ | ⟨hgap, hmore, heq⟩ | ⟨hgap, hlast, heq⟩ := transmitAction_cases (beginTick s)
  · exact .inl ⟨hframe, transmitTick_eq_driveTick heq⟩
  · exact .inr (.inl ⟨hgap, by omega, transmitTick_eq_driveTick heq⟩)
  · exact .inr (.inr ⟨hgap, by omega, by rw [transmitTick, heq]; rfl⟩)

/-- Settles O33: the three ranges of the tick's number are those of R150. -/
theorem transmitTickDrivesOneBit : Obligations.TransmitTickDrivesOneBit := by
  intro v s hready hrun hbusy level bit after
  have hcase : s.tickCase = some .tx := tickCase_eq_some_iff.mpr ⟨hrun, .inl ⟨rfl, hbusy⟩⟩
  have hexec : exec (.tickTx v) s = .next (transmitTick s) := tickOf_next.mpr ⟨hready.1, hready.2, hcase, rfl⟩
  have hbit : s.txBit s.txTick = bit := txBit_eq s s.txTick
  rw [hexec]
  obtain ⟨hframe, heq⟩ | ⟨hgap, hmore, heq⟩ | ⟨hgap, hlast, heq⟩ := transmitTick_cases s
  · rw [heq, driveTick_eq, hbit]
    exact ⟨fun _ => rfl, fun h => by omega, fun h => by omega⟩
  · rw [heq, driveTick_eq]
    exact ⟨fun h => by omega, fun _ _ => rfl, fun _ h => by omega⟩
  · rw [heq, releaseTick_eq]
    exact ⟨fun h => by omega, fun _ h => by omega, fun _ _ => rfl⟩

/-! ### The host's operations (R141, R142, R148) -/

/-- Settles O40: the bounds of RX.SETLEN are its only condition. -/
theorem rxSetlenAndRxAck : Obligations.RxSetlenAndRxAck := fun _ hready =>
  ⟨fun _ hpos hlen => (needSer_ready hready _).trans (if_pos ⟨hpos, hlen⟩),
    fun _ hn => (needSer_ready hready _).trans (if_neg (by omega)),
    needSer_ready hready _⟩

/-- R148: TXBUF after a list of bytes is written from offset 0. -/
theorem readByte_txbuf_writeList {s t : State} {bs : List Byte} (h : t.txbuf = s.txbuf.writeList 0 bs) (a : Nat) :
    t.readByte .txbuf a = if a < bs.length then bs.getD a 0 else s.readByte .txbuf a := by
  by_cases ha : a < bs.length <;> simp [State.readByte, State.buffer, h, Memory.cell_writeList, ha]

/-- Settles O41. -/
theorem txSendLoadsAndStartsTheClock : Obligations.TxSendLoadsAndStartsTheClock :=
  fun _ _ hready hfsm hbusy hpos hlen =>
    ⟨_, (needSer_ready hready _).trans (startTransmission_next.mpr ⟨hbusy, hfsm, hpos, hlen, rfl⟩), rfl,
      readByte_txbuf_writeList rfl⟩

/-! ### Outside the preconditions (R134, R148, R175, R178, R265) -/

theorem startTransmission_notAtRest {s : State} (h : s.txBusy = true ∨ s.rxFsm ≠ .waitEdge) (bs : List Byte) :
    startTransmission bs s = .refused .notAtRest :=
  if_pos h

theorem startTransmission_badCount {s : State} {bs : List Byte} (hfsm : s.rxFsm = .waitEdge) (hbusy : s.txBusy = false)
    (hn : bs.length = 0 ∨ s.cfg.txbufLen < bs.length) : startTransmission bs s = .refused .badCount :=
  (if_neg (by simp [hfsm, hbusy])).trans (if_pos hn)

theorem exec_forward_notAtRest {s : State} (hready : SerReady s) (h : s.txBusy = true ∨ s.rxFsm ≠ .waitEdge)
    (slot : Data11) : exec (.forward slot) s = .refused .notAtRest := by
  refine (needSer_ready hready _).trans (startTransmission_notAtRest ?_ _)
  split <;> exact h

/-- R134: a TICK row of case `c` is refused unless the clock runs and the state presents that case. -/
theorem tickOf_refused {s : State} {c : TickCase} {p : Prop} (hready : SerReady s)
    (hpresents : s.tickCase = some c → s.clkRun = true ∧ p) (hout : s.clkRun = false ∨ ¬ p) (v : Bool) :
    tickOf c v s = .refused .noSuchTick := by
  refine (needSer_ready hready _).trans (if_neg fun hcase => ?_)
  obtain ⟨hrun, hp⟩ := hpresents hcase
  simp [hrun, hp] at hout

theorem startSending_sending {s : State} (hdir : s.mDir = .tx) (brk : Bool) (bs : List Byte) :
    startSending brk bs s = .refused .sending :=
  if_pos hdir

theorem startSending_badCount {s : State} {brk : Bool} {bs : List Byte} (hdir : s.mDir = .rx)
    (hn : (brk = false ∧ bs.length = 0) ∨ s.cfg.ringLen < bs.length) : startSending brk bs s = .refused .badCount :=
  (if_neg (by simp [hdir])).trans (if_pos hn)

/-- Settles O44, clause by clause: each operation checks its precondition once the role and POL.DETECT are settled. -/
theorem outsidePreconditionsIsRefused : Obligations.OutsidePreconditionsIsRefused := by
  intro s
  refine ⟨fun hready hbusy => ⟨fun bs => ?_, exec_forward_notAtRest hready hbusy⟩,
    fun hready hfsm hbusy bs hn => ?_, fun hready i v p hrow hout => ?_,
    fun hrole hdir => ⟨fun brk bs => ?_, fun a op g => ?_, fun m => ?_⟩,
    fun hrole hdir => ⟨?_, fun brk bs hlen => ?_⟩⟩
  · exact (needSer_ready hready _).trans (startTransmission_notAtRest hbusy bs)
  · exact (needSer_ready hready _).trans (startTransmission_badCount hfsm hbusy hn)
  · simp only [List.mem_cons, Prod.mk.injEq, List.not_mem_nil, or_false] at hrow
    obtain ⟨rfl, rfl⟩ | ⟨rfl, rfl⟩ | ⟨rfl, rfl⟩ | ⟨rfl, rfl⟩ := hrow <;>
      exact tickOf_refused hready (fun hcase => by simpa using tickCase_eq_some_iff.mp hcase) hout v
  · exact (needMaster_own hrole _).trans (startSending_sending hdir brk bs)
  · exact (needMaster_own hrole _).trans (startSending_sending hdir _ _)
  · exact (needMaster_own hrole _).trans (if_pos hdir)
  · exact (needMaster_own hrole _).trans (startSending_badCount hdir (.inl ⟨rfl, rfl⟩))
  · exact (needMaster_own hrole _).trans (startSending_badCount hdir (.inr hlen))

end Machine
end Sys2Proof
end

section
/-! Proofs: what a format leaves in the master's ring, under the matching and under the other setting of `m_map`
(R170, R171, R178, R300). -/

namespace Sys2Proof
namespace Machine
open Sys2Proof.SpecForm

/-! ### The byte of a slot (R62, R84, R85) -/

theorem slotByte_eq_setBits (bits : List Bool) :
    slotByte bits = setBits 0 0 ((List.range 8).map fun i => bits.getD (i + 1) false) := rfl

theorem getLsbD_slotByte (bits : List Bool) {k : Nat} (hk : k < 8) :
    (slotByte bits).getLsbD k = bits.getD (k + 1) false := by
  rw [slotByte_eq_setBits, getLsbD_setBits _ hk, if_pos ⟨Nat.zero_le k, by simpa using hk⟩]
  simp [List.getD_eq_getElem?_getD, hk]

theorem slotByte_frameBits (b : Byte) : slotByte (frameBits b) = b :=
  setBits_dataBits b

theorem slotByte_breakBits : slotByte breakBits = 0 := setBits_zeros

/-- R300: a slot read with every level inverted gives the complement of its byte. -/
theorem slotByte_map_not {bits : List Bool} (hlen : 9 ≤ bits.length) :
    slotByte (bits.map (!·)) = slotByte bits ^^^ 0xFF := by
  ext k hk
  have hin : k + 1 < bits.length := by omega
  have hones : (0xFF : Byte).getLsbD k = true := by interval_cases k <;> rfl
  rw [← BitVec.getLsbD_eq_getElem, ← BitVec.getLsbD_eq_getElem, BitVec.getLsbD_xor, getLsbD_slotByte _ hk,
    getLsbD_slotByte _ hk, hones, Bool.xor_true]
  simp [List.getD_eq_getElem?_getD, hin]

/-! ### What a master reads from a slot (R170, R178, R300) -/

theorem masterLogical_lineLevel_matches {s : State} (h : MapMatches s) (b : Bool) :
    s.masterLogical (s.lineLevel b) = b := by
  rw [State.masterLogical, masterElec_eq, show masterLevel s true = s.cfg.lineOne from h, State.lineLevel]
  cases b <;> simp

theorem masterLogical_lineLevel_mismatch {s : State} (h : ¬ MapMatches s) (b : Bool) :
    s.masterLogical (s.lineLevel b) = !b := by
  have hlevel : masterLevel s true = !s.cfg.lineOne := Bool.eq_not_of_ne h
  rw [State.masterLogical, masterElec_eq, hlevel, State.lineLevel]
  cases b <;> simp

theorem masterReads_matches {s : State} (h : MapMatches s) (bits : List Bool) :
    s.masterReads bits = slotByte bits := by
  simp only [State.masterReads, masterLogical_lineLevel_matches h, List.map_id']

theorem masterReads_mismatch {s : State} (h : ¬ MapMatches s) {bits : List Bool} (hlen : 9 ≤ bits.length) :
    s.masterReads bits = slotByte bits ^^^ 0xFF := by
  simp only [State.masterReads, masterLogical_lineLevel_mismatch h, slotByte_map_not hlen]

/-! ### The ring after a list of captures (R171) -/

theorem offset_captureByte (b : Byte) (s : State) (j : Nat) :
    ((captureByte b s).ringWr + j) % (captureByte b s).cfg.ringLen = (s.ringWr + (j + 1)) % s.cfg.ringLen := by
  rw [captureByte_ringWr, captureByte_cfg, Nat.mod_add_mod, Nat.add_assoc, Nat.add_comm 1 j]

/-- The offsets that follow the write pointer come back to it only after a whole turn. -/
theorem later_offset_ne {w l j : Nat} (hw : w < l) (hpos : 0 < j) (hj : j < l) : w ≠ (w + j) % l := by
  rcases Nat.lt_or_ge (w + j) l with hlt | hge
  · rw [Nat.mod_eq_of_lt hlt]
    omega
  · rw [Nat.mod_eq_sub_mod hge, Nat.mod_eq_of_lt (by omega)]
    omega

theorem captureByte_ringWr_lt {s : State} (hw : s.ringWr < s.cfg.ringLen) (b : Byte) :
    (captureByte b s).ringWr < (captureByte b s).cfg.ringLen :=
  Nat.mod_lt _ (Nat.zero_lt_of_lt hw)

theorem ringWr_captureBytes {s : State} (hw : s.ringWr < s.cfg.ringLen) (bs : List Byte) :
    (captureBytes bs s).ringWr = (s.ringWr + bs.length) % s.cfg.ringLen := by
  induction bs generalizing s with
  | nil => exact (Nat.mod_eq_of_lt hw).symm
  | cons b bs ih =>
    rw [captureBytes_cons, ih (captureByte_ringWr_lt hw b), offset_captureByte, List.length_cons]

theorem captureBytes_frame (bs : List Byte) (s : State) :
    captureBytes bs s = { s with
      ring := (captureBytes bs s).ring
      ringWr := (captureBytes bs s).ringWr
      mRxSince := (captureBytes bs s).mRxSince } := by
  induction bs generalizing s with
  | nil => rfl
  | cons b bs ih => exact ih (captureByte b s)

theorem readByte_captureBytes_other {s : State} {bs : List Byte} {a : Nat} (hw : s.ringWr < s.cfg.ringLen)
    (ha : ∀ j, j < bs.length → a ≠ (s.ringWr + j) % s.cfg.ringLen) :
    (captureBytes bs s).readByte .ring a = s.readByte .ring a := by
  induction bs generalizing s with
  | nil => rfl
  | cons b bs ih =>
    have hfirst : a ≠ s.ringWr := by simpa [Nat.mod_eq_of_lt hw] using ha 0 (Nat.zero_lt_succ _)
    have hrest : ∀ j, j < bs.length →
        a ≠ ((captureByte b s).ringWr + j) % (captureByte b s).cfg.ringLen := fun j hj => by
      rw [offset_captureByte]
      exact ha (j + 1) (Nat.succ_lt_succ hj)
    rw [captureBytes_cons, ih (captureByte_ringWr_lt hw b) hrest, readByte_captureByte, if_neg hfirst]

/-- R171: in a list no longer than the ring no byte is overwritten by a later one. -/
theorem readByte_captureBytes {s : State} {bs : List Byte} {j : Nat} (hw : s.ringWr < s.cfg.ringLen)
    (hlen : bs.length ≤ s.cfg.ringLen) (hj : j < bs.length) :
    (captureBytes bs s).readByte .ring ((s.ringWr + j) % s.cfg.ringLen) = bs.getD j 0 := by
  induction bs generalizing s j with
  | nil => cases hj
  | cons b bs ih =>
    rw [List.length_cons] at hlen hj
    have hw' := captureByte_ringWr_lt hw b
    cases j with
    | zero =>
      have hkept : ∀ i, i < bs.length →
          s.ringWr ≠ ((captureByte b s).ringWr + i) % (captureByte b s).cfg.ringLen := fun i hi => by
        rw [offset_captureByte]
        exact later_offset_ne hw (Nat.succ_pos i) (by omega)
      rw [Nat.add_zero, Nat.mod_eq_of_lt hw, captureBytes_cons, readByte_captureBytes_other hw' hkept,
        readByte_captureByte, if_pos rfl, List.getD_cons_zero]
    | succ j =>
      have hrest := ih (j := j) hw' (show bs.length ≤ s.cfg.ringLen by omega) (by omega)
      rwa [offset_captureByte] at hrest

theorem capturedBy_captureBytes {s : State} {bs : List Byte} (hne : bs ≠ []) (hlen : bs.length ≤ s.cfg.ringLen)
    (hw : s.ringWr < s.cfg.ringLen) : CapturedBy s bs (captureBytes bs s) := by
  have hsince : (captureBytes bs s).mRxSince = min (s.mRxSince + bs.length) s.cfg.ringLen := by
    obtain ⟨b, bs, rfl⟩ := List.exists_cons_of_ne_nil hne
    exact mRxSince_captureBytes b bs s
  refine ⟨?_, fun j hj => readByte_captureBytes hw hlen hj, fun a ha => readByte_captureBytes_other hw ha⟩
  rw [← ringWr_captureBytes hw, ← hsince]
  exact captureBytes_frame bs s

/-! ### A format in front of a master (R80, R170, R241) -/

theorem onLine_master {s : State} (hrole : s.cfg.role = .masterRole) (k : State) : onLine s k = .next k :=
  onLine_next.mpr ⟨rfl, by simp [hrole]⟩

theorem receiveBytes_master {s : State} (hrole : s.cfg.role = .masterRole) (hdir : s.mDir = .rx) (bs : List Byte) :
    receiveBytes bs s = captureBytes (bs.map fun b => s.masterReads (frameBits b)) s := by
  induction bs generalizing s with
  | nil => rfl
  | cons b bs ih =>
    have hfirst : receiveByte s b = captureByte (s.masterReads (frameBits b)) s := by
      simp only [receiveByte, hrole, captureIfReceiving, hdir]
    calc receiveBytes (b :: bs) s = receiveBytes bs (captureByte (s.masterReads (frameBits b)) s) :=
          congrArg (receiveBytes bs) hfirst
      _ = captureBytes ((b :: bs).map fun b => s.masterReads (frameBits b)) s :=
          ih (s := captureByte (s.masterReads (frameBits b)) s) hrole hdir

theorem receiveBreak_master {s : State} (hrole : s.cfg.role = .masterRole) (hdir : s.mDir = .rx) :
    receiveBreak s = captureBytes [s.masterReads breakBits] s := by
  simp only [receiveBreak, hrole, captureIfReceiving, hdir, captureBytes_cons, captureBytes_nil]

/-- R93 to R95: the longest format is a page. -/
theorem length_lineBytes_le {o : WordOrder} {i : Instr} {bs : List Byte} (hwf : i.wf = true)
    (hbs : lineBytes o i = some bs) : bs.length ≤ 67 := by
  have hword : ∀ w, (putWord o w).length ≤ 67 := fun w => by
    obtain ⟨b0, b1, hw, -⟩ := exists_putWord o w
    rw [hw]
    exact (by decide : 2 ≤ 67)
  have hblock : ∀ n ≤ 67, bs.length = n → bs.length ≤ 67 := fun n hn hlen => hlen ▸ hn
  unfold lineBytes at hbs
  split at hbs <;> cases hbs
  case h_1 => exact (by decide : 1 ≤ 67)
  case h_2 | h_3 => exact hword _
  case h_4 | h_5 | h_6 => exact hblock _ (by decide) (eq_of_beq hwf)

/-- R170, R171: a master that receives reads each frame of a format and captures what it reads. -/
theorem capturedBy_lineFormat {s : State} {i : Instr} {bs : List Byte} (hrole : s.cfg.role = .masterRole)
    (hring : 67 ≤ s.cfg.ringLen) (hw : s.ringWr < s.cfg.ringLen) (hdir : s.mDir = .rx) (hwf : i.wf = true)
    (hbs : lineBytes s.cfg.wordOrder i = some bs) :
    ∃ t, exec i s = .next t ∧ CapturedBy s (bs.map fun b => s.masterReads (frameBits b)) t := by
  have hexec : exec i s = .next (captureBytes (bs.map fun b => s.masterReads (frameBits b)) s) := by
    rw [exec_lineFormat hwf hbs, onLine_master hrole, receiveBytes_master hrole hdir]
  have hlen := length_lineBytes_le hwf hbs
  exact ⟨_, hexec, capturedBy_captureBytes (by simpa using lineBytes_ne_nil hwf hbs)
    (by rw [List.length_map]; omega) hw⟩

theorem capturedBy_break10 {s : State} (hrole : s.cfg.role = .masterRole) (hw : s.ringWr < s.cfg.ringLen)
    (hdir : s.mDir = .rx) : ∃ t, exec .break10 s = .next t ∧ CapturedBy s [s.masterReads breakBits] t := by
  have hexec : exec .break10 s = .next (captureBytes [s.masterReads breakBits] s) :=
    (onLine_master hrole _).trans (congrArg _ (receiveBreak_master hrole hdir))
  exact ⟨_, hexec, capturedBy_captureBytes (List.cons_ne_nil _ _) (Nat.one_le_of_lt hw) hw⟩

theorem capturedBy_capture {s : State} (hrole : s.cfg.role = .masterRole) (hw : s.ringWr < s.cfg.ringLen)
    (hdir : s.mDir = .rx) (b : Byte) : ∃ t, exec (.capture b) s = .next t ∧ CapturedBy s [b] t :=
  ⟨_, exec_capture hrole hdir b, capturedBy_captureBytes (List.cons_ne_nil _ _) (Nat.one_le_of_lt hw) hw⟩

theorem captureIfReceiving_sending {s : State} (hdir : s.mDir = .tx) (b : Byte) : captureIfReceiving b s = s := by
  simp only [captureIfReceiving, hdir]

theorem receiveBytes_sending {s : State} (hrole : s.cfg.role = .masterRole) (hdir : s.mDir = .tx) (bs : List Byte) :
    receiveBytes bs s = s := by
  have hbyte : ∀ b, receiveByte s b = s := fun b => by
    simp only [receiveByte, hrole, captureIfReceiving_sending hdir]
  unfold receiveBytes
  induction bs with
  | nil => rfl
  | cons b bs ih => rw [List.foldl_cons, hbyte, ih]

theorem receiveBreak_sending {s : State} (hrole : s.cfg.role = .masterRole) (hdir : s.mDir = .tx) :
    receiveBreak s = s := by
  simp only [receiveBreak, hrole, captureIfReceiving_sending hdir]

/-- Settles O36: the matching setting reads each frame as the byte that was sent. -/
theorem masterCapturesFormatsByteByByte : Obligations.MasterCapturesFormatsByteByByte := by
  intro s hrole hring hw
  constructor
  · intro hdir
    refine ⟨fun hmap => ⟨fun i bs hwf hbs => ?_, ?_⟩, capturedBy_capture hrole hw hdir⟩
    · have hformat := capturedBy_lineFormat hrole hring hw hdir hwf hbs
      simpa only [masterReads_matches hmap, slotByte_frameBits, List.map_id'] using hformat
    · rw [← slotByte_breakBits, ← masterReads_matches hmap]
      exact capturedBy_break10 hrole hw hdir
  · intro hdir
    refine ⟨fun i bs hwf hbs => ?_, ?_, fun b => ?_⟩
    · rw [exec_lineFormat hwf hbs, onLine_master hrole, receiveBytes_sending hrole hdir]
    · exact (onLine_master hrole _).trans (congrArg _ (receiveBreak_sending hrole hdir))
    · exact (needMaster_own hrole _).trans (congrArg _ (captureIfReceiving_sending hdir b))

/-- Settles O37: the other setting inverts every level of a slot, and so every bit of its byte. -/
theorem wrongMapComplementsEveryByte : Obligations.WrongMapComplementsEveryByte := by
  intro s hrole hring hw hdir hmap
  constructor
  · intro i bs hwf hbs
    have hread : ∀ b, s.masterReads (frameBits b) = b ^^^ 0xFF := fun b => by
      rw [masterReads_mismatch hmap (by simp [frameBits]), slotByte_frameBits]
    simpa only [hread] using capturedBy_lineFormat hrole hring hw hdir hwf hbs
  · have hread : s.masterReads breakBits = 0xFF := by
      rw [masterReads_mismatch hmap (by simp [breakBits]), slotByte_breakBits]
      rfl
    rw [← hread]
    exact capturedBy_break10 hrole hw hdir

end Machine
end Sys2Proof
end

section
/-! Proofs: the master's operations and where its transmit agent may rest (R175 to R178). -/

namespace Sys2Proof
namespace Machine
open Sys2Proof.SpecForm

/-! ### M.SEND and M.SETMAP (R175, R178) -/

theorem exec_mSend {s : State} {brk : Bool} {bs : List Byte} (hrole : s.cfg.role = .masterRole) (hdir : s.mDir = .rx)
    (hsome : brk = true ∨ 1 ≤ bs.length) (hlen : bs.length ≤ s.cfg.ringLen) :
    exec (.mSend brk bs) s = .next (beginSending brk bs s) :=
  (needMaster_own hrole _).trans (startSending_next.mpr ⟨hdir, hsome, hlen, rfl⟩)

/-- Settles O45. -/
theorem mSendFlipsTheLineToTransmit : Obligations.MSendFlipsTheLineToTransmit :=
  fun _ _ _ hrole hdir hsome hlen => exec_mSend hrole hdir hsome hlen

theorem exec_mSetmap {s : State} (hrole : s.cfg.role = .masterRole) (hdir : s.mDir = .rx) (m : MMap) :
    exec (.mSetmap m) s = .next { s with mMap := m, result := .none } :=
  (needMaster_own hrole _).trans (if_neg (by simp [hdir]))

/-- R178: the two logical values have opposite levels. -/
theorem masterElec_false (s : State) : s.masterElec false = !s.masterElec true := by simp [State.masterElec]

/-- Settles O47. -/
theorem mSetmapSelectsTheWiring : Obligations.MSetmapSelectsTheWiring := by
  intro m s hrole hdir
  refine ⟨_, exec_mSetmap hrole hdir m, rfl, masterElec_eq _, ?_, masterElec_false _⟩
  cases m <;> rfl

/-! ### TXC (R177) -/

theorem sendBreak_eq (s : State) :
    sendBreak s = { s with
      mWave := s.mWave ++ drivenBits s (breakIf s.cfg s.mBrk)
      mBrk := false, mPhase := if s.mBrk then .gap else s.mPhase } := by
  cases hbrk : s.mBrk with
  | true => exact (if_pos hbrk).trans (by rw [driveWave_eq]; rfl)
  | false =>
    calc sendBreak s = s := if_neg (by simp [hbrk])
      _ = { s with mBrk := false } := by rw [← hbrk]
      _ = _ := by simp [breakIf, drivenBits]

theorem sendQueue_eq (s : State) :
    sendQueue s = { s with mWave := s.mWave ++ drivenBits s (s.mTxq.flatMap frameBits), mTxq := [] } := by
  rw [sendQueue, driveWave_eq]

/-- R176, R177: what the agent still held goes out before the event. -/
theorem completeSending_held (s : State) :
    completeSending (sendQueue (sendBreak s)) = { s with
      mDir := .rx, mRxSince := 0, mTxq := [], mBrk := false, mPhase := .start
      mWave := s.mWave ++ drivenBits s (breakIf s.cfg s.mBrk ++ s.mTxq.flatMap frameBits) } := by
  rw [sendQueue_eq, sendBreak_eq, drivenBits_append, ← List.append_assoc]
  rfl

/-- Settles O46. -/
theorem txcReturnsToReceive : Obligations.TxcReturnsToReceive := by
  intro s hrole
  constructor
  · intro hdir
    calc exec .txc s = .next (completeSending s) := (needMaster_own hrole _).trans (by rw [hdir])
      _ = .next { s with mRxSince := 0, mPhase := .start } := by rw [completeSending, ← hdir]
  · intro hdir
    calc exec .txc s = .next (completeSending (sendQueue (sendBreak s))) :=
          (needMaster_own hrole _).trans (by rw [hdir])
      _ = _ := by rw [completeSending_held]

/-! ### The rests of the transmit agent (R176) -/

theorem step_rest {s : State} {d : Rat} {rest : List Input} (hedge : s.edgePend = false) (htick : s.tickPend = false)
    (hin : s.inputs = .rest d :: rest) : step s = agentRest d { s with inputs := rest } := by
  simp [step, stepOnce, hedge, htick, hin, runInput]

theorem restAllowed_iff (s : State) :
    s.restAllowed = true ↔ s.mDir = .tx ∧ (s.mPhase = .gap ∨ (s.mPhase = .frame ∧ s.mTxq ≠ [])) := by
  unfold State.restAllowed
  cases s.mPhase <;> simp

theorem agentRest_refused {s : State} {d : Rat} (h : ¬ (s.restAllowed = true ∧ 0 < d)) :
    agentRest d s = .refused .noRest :=
  if_neg h

theorem driveRest_eq (d : Rat) (s : State) :
    driveRest d s = { s with mWave := s.mWave ++ [⟨masterLevel s true, d⟩] } := by
  rw [driveRest, State.span, masterElec_eq]

/-- Settles O49: each clause decides whether the agent may rest here, and for this long. -/
theorem agentRestsInGapAndBetweenFrames : Obligations.AgentRestsInGapAndBetweenFrames := by
  intro s d rest hedge htick hin
  rw [step_rest hedge htick hin]
  constructor
  · intro hpos hdir hplace
    exact agentRest_next.mpr ⟨⟨(restAllowed_iff _).mpr ⟨hdir, hplace⟩, hpos⟩,
      (driveRest_eq d { s with inputs := rest }).symm⟩
  · intro hout
    refine agentRest_refused fun hallowed => ?_
    obtain ⟨hrest, hpos⟩ := hallowed
    obtain ⟨hdir, hplace⟩ := (restAllowed_iff _).mp hrest
    rcases hout with hneg | hrx | hstart | hlast
    · exact absurd hpos (not_lt.mpr hneg)
    · simp [hrx] at hdir
    · simp [hstart] at hplace
    · simp [hlast] at hplace

end Machine
end Sys2Proof
end

section
/-! Proofs: the CRC engine (R191 to R194), its rounds as a linear map without kernel, and what follows for a block of
which one byte was changed (R190, R242). -/

namespace Sys2Proof
namespace Machine
open Sys2Proof.SpecForm

/-! ### The loop of CRC.UPDATE (R192) -/

theorem crcSteps_eq_iterate (n : Nat) (x : Word16) : crcSteps n x = crcLoop^[n] x := by
  induction n generalizing x with
  | zero => rfl
  | succ n ih => exact ih (crcShift x)

/-- Settles O7: the eight steps are rounds of the loop body. -/
theorem crcInitAndUpdateFollowTheLoop : Obligations.CrcInitAndUpdateFollowTheLoop := by
  intro b s
  rw [← crcSteps_eq_iterate]
  exact ⟨rfl, rfl⟩

/-! ### CRC.BLOCK byte by byte (R193) -/

/-- One CRC.UPDATE a byte folds the bytes into the accumulator; the result field is that of the last one. -/
theorem execAll_crcUpdate (bs : List Byte) (s : State) :
    ∃ r, execAll (bs.map .crcUpdate) s = .next { s with crc := bs.foldl crcUpdate s.crc, result := r } := by
  induction bs generalizing s with
  | nil => exact ⟨s.result, rfl⟩
  | cons b bs ih => exact ih { s with crc := crcUpdate s.crc b, result := .none }

/-- Settles O8: CRC.INIT gives the updates the accumulator that CRC.BLOCK starts with. -/
theorem crcBlockIsInitThenUpdates : Obligations.CrcBlockIsInitThenUpdates := fun bs s =>
  ⟨crcBlock bs, rfl, execAll_crcUpdate bs { s with crc := 0, result := .none }, fun hnil => hnil ▸ rfl,
    fun _ => ⟨_, rfl⟩⟩

/-! ### The rounds are linear (R194) -/

/-- R190, R192: the polynomial, if a step shifts out a set bit. -/
def polynomialIf (b : Bool) : Word16 := if b then 0x1021#16 else 0

theorem polynomialIf_xor (a b : Bool) : polynomialIf (a ^^ b) = polynomialIf a ^^^ polynomialIf b := by
  revert a b; decide

theorem crcShift_eq_xor (x : Word16) : crcShift x = (x <<< 1) ^^^ polynomialIf (x.getLsbD 15) := by
  rw [crcShift, polynomialIf]
  split
  · rfl
  · exact BitVec.xor_zero.symm

theorem crcShift_xor (x y : Word16) : crcShift (x ^^^ y) = crcShift x ^^^ crcShift y := by
  rw [crcShift_eq_xor, crcShift_eq_xor, crcShift_eq_xor, BitVec.shiftLeft_xor_distrib, BitVec.getLsbD_xor,
    polynomialIf_xor]
  ac_rfl

theorem crcSteps_xor (n : Nat) (x y : Word16) : crcSteps n (x ^^^ y) = crcSteps n x ^^^ crcSteps n y := by
  induction n generalizing x y with
  | zero => rfl
  | succ n ih => rw [crcSteps, crcShift_xor, ih, ← crcSteps, ← crcSteps]

/-- R192: a byte at the top of the accumulator. -/
def topByte (b : Byte) : Word16 := b.setWidth 16 <<< 8

theorem crcUpdate_eq (c : Word16) (b : Byte) : crcUpdate c b = crcSteps 8 (c ^^^ topByte b) := rfl

theorem topByte_xor (a b : Byte) : topByte (a ^^^ b) = topByte a ^^^ topByte b := by
  rw [topByte, BitVec.setWidth_xor, BitVec.shiftLeft_xor_distrib, ← topByte, ← topByte]

theorem crcUpdate_xor (c d : Word16) (a b : Byte) :
    crcUpdate (c ^^^ d) (a ^^^ b) = crcUpdate c a ^^^ crcUpdate d b := by
  rw [crcUpdate_eq, topByte_xor, crcUpdate_eq, crcUpdate_eq, ← crcSteps_xor]
  ac_rfl

theorem foldl_crcUpdate_xor {as bs : List Byte} (hlen : as.length = bs.length) (c d : Word16) :
    (List.zipWith (· ^^^ ·) as bs).foldl crcUpdate (c ^^^ d) = as.foldl crcUpdate c ^^^ bs.foldl crcUpdate d := by
  induction as generalizing bs c d with
  | nil => rw [List.length_eq_zero_iff.mp hlen.symm]; rfl
  | cons a as ih =>
    cases bs with
    | nil => cases hlen
    | cons b bs =>
      rw [List.zipWith_cons_cons, List.foldl_cons, crcUpdate_xor]
      exact ih (Nat.succ.inj hlen) _ _

/-- R194 (a). -/
theorem crcBlock_xor {as bs : List Byte} (hlen : as.length = bs.length) :
    crcBlock (List.zipWith (· ^^^ ·) as bs) = crcBlock as ^^^ crcBlock bs :=
  foldl_crcUpdate_xor hlen 0 0

/-! ### A string followed by its CRC (R194) -/

/-- A byte on its way up through the accumulator meets no set bit 15. -/
theorem crcShift_rising_byte (b : Byte) {k : Nat} (hk : k < 8) :
    crcShift (b.setWidth 16 <<< k) = b.setWidth 16 <<< (k + 1) := by
  have htop : ((b.setWidth 16 <<< k : Word16)).getLsbD 15 = false := by
    rw [BitVec.getLsbD_shiftLeft, BitVec.getLsbD_setWidth, BitVec.getLsbD_of_ge b _ (by omega)]
    simp
  rw [crcShift, htop, BitVec.shiftLeft_add]
  rfl

theorem crcSteps_rising_byte (b : Byte) {n k : Nat} (h : n + k ≤ 8) :
    crcSteps n (b.setWidth 16 <<< k) = b.setWidth 16 <<< (n + k) := by
  induction n generalizing k with
  | zero => rw [Nat.zero_add]; rfl
  | succ n ih => rw [crcSteps, crcShift_rising_byte b (by omega), ih (by omega), Nat.add_right_comm, Nat.add_assoc]

theorem xor_topByte_hi (c : Word16) : c ^^^ topByte (hi c) = (lo c).setWidth 16 := by
  ext i hi'
  simp only [topByte, hi, lo, BitVec.getElem_xor, BitVec.getElem_shiftLeft, BitVec.getElem_setWidth,
    BitVec.getLsbD_setWidth, BitVec.getLsbD_ushiftRight]
  grind

/-- The high byte cancels in the accumulator, and the low byte is what the eight steps bring to the top. -/
theorem crcUpdate_hi (c : Word16) : crcUpdate c (hi c) = topByte (lo c) := by
  rw [crcUpdate_eq, xor_topByte_hi]
  have hsteps := crcSteps_rising_byte (lo c) (n := 8) (k := 0) (by decide)
  rwa [BitVec.shiftLeft_zero] at hsteps

theorem crcUpdate_topByte (b : Byte) : crcUpdate (topByte b) b = 0 := by
  rw [crcUpdate_eq, BitVec.xor_self]
  rfl

/-- R194 (b). -/
theorem crcBlock_append_crc (as : List Byte) : crcBlock (as ++ [hi (crcBlock as), lo (crcBlock as)]) = 0 :=
  calc crcBlock (as ++ [hi (crcBlock as), lo (crcBlock as)])
      = crcUpdate (crcUpdate (crcBlock as) (hi (crcBlock as))) (lo (crcBlock as)) := List.foldl_append
    _ = 0 := by rw [crcUpdate_hi, crcUpdate_topByte]

/-- Settles O9: (c) follows from (b) for equal bytes, and fails for the one byte 1, of CRC 0x1021. -/
theorem crcLinearityAndResidues : Obligations.CrcLinearityAndResidues := by
  refine ⟨fun _ _ => crcBlock_xor, crcBlock_append_crc, fun as hequal => ?_, [1], by decide +kernel⟩
  have hresidue := crcBlock_append_crc as
  rwa [← hequal] at hresidue ⊢

/-! ### The rounds lose nothing (R192) -/

/-- The polynomial's lowest bit keeps the bit that is shifted out. -/
theorem getLsbD_zero_crcShift (x : Word16) : (crcShift x).getLsbD 0 = x.getLsbD 15 := by
  have hlow : ∀ b, (polynomialIf b).getLsbD 0 = b := by decide
  rw [crcShift_eq_xor, BitVec.getLsbD_xor, hlow, BitVec.getLsbD_shiftLeft]
  simp

theorem eq_zero_of_crcShift {x : Word16} (h : crcShift x = 0) : x = 0 := by
  have htop : x.getLsbD 15 = false := by
    rw [← getLsbD_zero_crcShift, h]
    rfl
  have hshift : x <<< 1 = 0 := by rwa [crcShift, htop] at h
  refine BitVec.eq_of_getLsbD_eq fun i hi => ?_
  rcases Nat.lt_succ_iff_lt_or_eq.mp hi with hlow | rfl
  · have hbit := congrArg (·.getLsbD (i + 1)) hshift
    simpa [show i + 1 < 16 by omega, -BitVec.getLsbD_eq_getElem] using hbit
  · exact htop

theorem crcShift_injective : Function.Injective crcShift := fun x y h =>
  BitVec.xor_eq_zero_iff.mp <| eq_zero_of_crcShift <| by rw [crcShift_xor, h, BitVec.xor_self]; rfl

theorem crcSteps_injective (n : Nat) : Function.Injective (crcSteps n) := by
  induction n with
  | zero => exact Function.injective_id
  | succ n ih => exact ih.comp crcShift_injective

theorem topByte_injective : Function.Injective topByte := by
  intro a b h
  ext i hi'
  have hbit := congrArg (·.getLsbD (i + 8)) h
  simpa [topByte, show i + 8 < 16 by omega, hi'] using hbit

theorem crcUpdate_left_injective (b : Byte) : Function.Injective (crcUpdate · b) := fun _ _ h =>
  (BitVec.xor_left_inj _).mp (crcSteps_injective 8 h)

theorem crcUpdate_right_injective (c : Word16) : Function.Injective (crcUpdate c) := fun _ _ h =>
  topByte_injective ((BitVec.xor_right_inj _).mp (crcSteps_injective 8 h))

theorem foldl_crcUpdate_injective (bs : List Byte) : Function.Injective fun c => bs.foldl crcUpdate c := by
  induction bs with
  | nil => exact Function.injective_id
  | cons b bs ih => exact ih.comp (crcUpdate_left_injective b)

/-- R190: the accumulators differ after the changed byte, and the bytes behind it keep them apart. -/
theorem crcBlock_set_ne {bs : List Byte} {i : Nat} {b : Byte} (hi : i < bs.length) (hb : b ≠ bs[i]) :
    crcBlock (bs.set i b) ≠ crcBlock bs := by
  intro h
  rw [List.set_eq_take_append_cons_drop, if_pos hi] at h
  nth_rw 3 [← List.take_append_drop i bs] at h
  rw [List.drop_eq_getElem_cons hi, crcBlock, crcBlock, List.foldl_append, List.foldl_append, List.foldl_cons,
    List.foldl_cons] at h
  exact hb (crcUpdate_right_injective _ (foldl_crcUpdate_injective _ h))

/-! ### A block with one byte changed (R242) -/

theorem getWord_left_inj (o : WordOrder) {a b c : Byte} : getWord o a c = getWord o b c ↔ a = b := by
  cases o
  · exact BitVec.append_right_inj c
  · exact BitVec.append_left_inj c

theorem getWord_right_inj (o : WordOrder) {a b c : Byte} : getWord o c a = getWord o c b ↔ a = b := by
  cases o
  · exact BitVec.append_left_inj c
  · exact BitVec.append_right_inj c

theorem byteAt_set_self {bs : List Byte} {i : Nat} (hi : i < bs.length) (b : Byte) : byteAt (bs.set i b) i = b := by
  simp [byteAt, hi]

theorem byteAt_set_ne {bs : List Byte} {i j : Nat} (hij : i ≠ j) (b : Byte) :
    byteAt (bs.set i b) j = byteAt bs j := by
  simp [byteAt, List.getD_eq_getElem?_getD, hij]

section Changed
variable {o : WordOrder} {bs : List Byte} {i n : Nat} {b : Byte}

theorem storedTrailer_set_body (hi : i < n - 2) : storedTrailer o n (bs.set i b) = storedTrailer o n bs := by
  rw [storedTrailer, byteAt_set_ne (by omega), byteAt_set_ne (by omega), ← storedTrailer]

theorem storedTrailer_set_trailer (hlen : bs.length = n) (hn : 2 ≤ n) (hi : i < n)
    (htrailer : n - 2 ≤ i) (hb : b ≠ byteAt bs i) : storedTrailer o n (bs.set i b) ≠ storedTrailer o n bs := by
  rw [storedTrailer, storedTrailer]
  obtain rfl | rfl : i = n - 2 ∨ i = n - 1 := by omega
  · rwa [byteAt_set_self (by omega), byteAt_set_ne (by omega), Ne, getWord_left_inj]
  · rwa [byteAt_set_self (by omega), byteAt_set_ne (by omega), Ne, getWord_right_inj]

/-- One changed byte alters the CRC of the body or the stored trailer, and leaves the other as it was. -/
theorem trailer_ne_of_changed (hlen : bs.length = n) (hn : 2 ≤ n) (hi : i < n) (hb : b ≠ byteAt bs i)
    (hvalid : crcBlock (bs.take (n - 2)) = storedTrailer o n bs) :
    crcBlock ((bs.set i b).take (n - 2)) ≠ storedTrailer o n (bs.set i b) := by
  rcases Nat.lt_or_ge i (n - 2) with hbody | htrailer
  · rw [storedTrailer_set_body hbody, ← hvalid, List.take_set]
    refine crcBlock_set_ne (by rw [List.length_take]; omega) ?_
    rwa [List.getElem_take, ← List.getD_eq_getElem _ 0]
  · rw [List.take_set_of_le htrailer, hvalid]
    exact (storedTrailer_set_trailer hlen hn hi htrailer hb).symm

/-- R242: a check that does not answer an exception found the CRC of the body in the trailer. -/
theorem trailer_of_accepted {r : Result} {s t : State} (h : checkBlock n bs r s = .next t)
    (haccepted : ∀ e, t.result ≠ .exception e) :
    crcBlock (bs.take (n - 2)) = storedTrailer s.cfg.wordOrder n bs := by
  obtain ⟨-, ⟨heq, -⟩ | ⟨-, rfl⟩⟩ := checkBlock_next.mp h
  · exact heq
  · exact absurd rfl (haccepted _)

/-- R190, R242: a check operation that accepts a block finds, with a byte changed, that the CRCs differ. -/
theorem check_rejects_changed {check : List Byte → Instr} {r : List Byte → Result} {s t : State}
    (hcheck : ∀ cs, exec (check cs) s = checkBlock n cs (r cs) s) (hn : 2 ≤ n) (hi : i < bs.length)
    (hb : b ≠ byteAt bs i) (h : exec (check bs) s = .next t) (haccepted : ∀ e, t.result ≠ .exception e) :
    ∃ u x y, exec (check (bs.set i b)) s = .next u ∧ u.result = .exception (.crcMismatch x y) := by
  rw [hcheck] at h ⊢
  obtain ⟨hlen, -⟩ := checkBlock_next.mp h
  have hne := trailer_ne_of_changed hlen hn (hlen ▸ hi) hb (trailer_of_accepted h haccepted)
  exact ⟨_, _, _, checkBlock_next.mpr ⟨by rwa [List.length_set], .inr ⟨hne, rfl⟩⟩, rfl⟩

end Changed

/-- Settles O15: in its own role each of the three operations is the shared check. -/
theorem oneChangedByteIsRejected : Obligations.OneChangedByteIsRejected := by
  intro s bs i b hi hb
  refine ⟨fun hrole _ ⟨t, a, vs, hexec, hresult⟩ => ?_, fun hrole _ ⟨t, sw, hw, sn, hexec, hresult⟩ => ?_,
    fun hrole _ ⟨t, n, ws, hexec, hresult⟩ => ?_⟩
  · exact check_rejects_changed (fun _ => needMaster_own hrole _) (by decide) hi hb hexec (by simp [hresult])
  · exact check_rejects_changed (fun _ => needMaster_own hrole _) (by decide) hi hb hexec (by simp [hresult])
  · exact check_rejects_changed (fun _ => needModule_own hrole _) (by decide) hi hb hexec (by simp [hresult])

end Machine
end Sys2Proof
end

section
/-! Proofs: unit FRM, commands (44_command.md): the packing in the slices of R87, the codewords on the wire and back
(R200 to R204), the address filter (R207) and the commands behind it (R211 to R219). -/

namespace Sys2Proof
namespace Machine
open Sys2Proof.SpecForm

/-! ### The fields of a payload (R87, R200, R201) -/

section Packing
variable {c : Config} {a : Addr} {op : Opcode} {g p : Data11}

theorem payloadAddr_eq_addrOf (hc : Packs c) (p : Data11) : payloadAddr c p = addrOf c p := by
  have hshift : 11 - c.addrW = 3 + c.argW := by unfold Packs at hc; omega
  apply BitVec.eq_of_toNat_eq
  simp [payloadAddr, addrOf, hshift, Nat.shiftRight_eq_div_pow]

theorem payloadOp_eq_opOf (hc : Packs c) (p : Data11) : payloadOp c p = opOf c p := by
  have hshift : 8 - c.addrW = c.argW := by unfold Packs at hc; omega
  apply BitVec.eq_of_toNat_eq
  simp [payloadOp, opOf, hshift, Nat.shiftRight_eq_div_pow]

/-- R201: the argument of a payload is that of the payload which packs it alone. -/
theorem payloadArg_eq_lowArg (hc : Packs c) (p : Data11) : payloadArg c p = lowArg c p := by
  have hzero : (0 : Addr).toNat < 2 ^ c.addrW := by positivity
  rw [← payloadArg_payloadOf_low (op := 0) hc hzero, payloadArg, payloadArg, payloadOf_toNat hc hzero,
    Nat.mul_add_mod_self_right, Nat.mod_mod]

theorem toNat_lowArg (hc : Packs c) (g : Data11) : (lowArg c g).toNat = g.toNat % 2 ^ c.argW := by
  rw [← payloadArg_eq_lowArg hc, payloadArg, BitVec.toNat_ofNat]
  exact Nat.mod_eq_of_lt ((Nat.mod_le _ _).trans_lt g.isLt)

/-- R200: `a[ADDR_W-1:0]` at the top of a payload; what its field cannot hold is shifted out. -/
theorem toNat_addressField (hc : Packs c) (a : Addr) :
    (a.setWidth 11 <<< (3 + c.argW)).toNat = (a.toNat % 2 ^ c.addrW) <<< (3 + c.argW) := by
  have hwidth : 2 ^ 11 = 2 ^ c.addrW * 2 ^ (3 + c.argW) := by rw [← pow_add, ← Nat.add_assoc, hc]
  rw [BitVec.toNat_shiftLeft, BitVec.toNat_setWidth_of_le (by decide), Nat.shiftLeft_eq, Nat.shiftLeft_eq, hwidth,
    Nat.mul_mod_mul_right]

theorem opcodeField_lt (c : Config) (op : Opcode) : op.toNat <<< c.argW < 2 ^ (3 + c.argW) := by
  rw [Nat.shiftLeft_eq, pow_add]
  exact Nat.mul_lt_mul_of_pos_right op.isLt (by positivity)

theorem toNat_opcodeField (hc : Packs c) (op : Opcode) :
    (op.setWidth 11 <<< c.argW).toNat = op.toNat <<< c.argW := by
  have hwidth : 3 + c.argW ≤ 11 := by unfold Packs at hc; omega
  rw [BitVec.toNat_shiftLeft, BitVec.toNat_setWidth_of_le (by decide)]
  exact Nat.mod_eq_of_lt ((opcodeField_lt c op).trans_le (Nat.pow_le_pow_right (by decide) hwidth))

/-- R87, R200: the three fields do not overlap, so their union is their sum. -/
theorem toNat_firstPayload (hc : Packs c) (a : Addr) (op : Opcode) (g : Data11) :
    (firstPayload c a op g).toNat =
      (a.toNat % 2 ^ c.addrW * 8 + op.toNat) * 2 ^ c.argW + g.toNat % 2 ^ c.argW := by
  have hhead : (a.toNat % 2 ^ c.addrW) <<< (3 + c.argW) + op.toNat <<< c.argW =
      (a.toNat % 2 ^ c.addrW * 8 + op.toNat) <<< c.argW := by
    simp only [Nat.shiftLeft_eq, pow_add]
    ring
  rw [firstPayload, BitVec.toNat_or, BitVec.toNat_or, toNat_addressField hc, toNat_opcodeField hc, toNat_lowArg hc,
    ← Nat.shiftLeft_add_eq_or_of_lt (opcodeField_lt c op), hhead,
    ← Nat.shiftLeft_add_eq_or_of_lt (Nat.mod_lt _ (by positivity)), Nat.shiftLeft_eq]

theorem payloadOf_eq_firstPayload (hc : Packs c) (a : Addr) (op : Opcode) (g : Data11) :
    payloadOf c a op g = firstPayload c a op g := by
  rw [payloadOf, ← toNat_firstPayload hc, BitVec.ofNat_toNat, BitVec.setWidth_eq]

theorem addrOf_firstPayload (hc : Packs c) (ha : a.toNat < 2 ^ c.addrW) : addrOf c (firstPayload c a op g) = a := by
  rw [← payloadAddr_eq_addrOf hc, ← payloadOf_eq_firstPayload hc, payloadAddr_payloadOf hc ha]

theorem opOf_firstPayload (hc : Packs c) (ha : a.toNat < 2 ^ c.addrW) : opOf c (firstPayload c a op g) = op := by
  rw [← payloadOp_eq_opOf hc, ← payloadOf_eq_firstPayload hc, payloadOp_payloadOf hc ha]

theorem lowArg_firstPayload (hc : Packs c) (ha : a.toNat < 2 ^ c.addrW) :
    lowArg c (firstPayload c a op g) = lowArg c g := by
  rw [← payloadArg_eq_lowArg hc, ← payloadOf_eq_firstPayload hc, payloadArg_payloadOf_low hc ha]

/-- R200: an argument field of no bits takes nothing of the argument. -/
theorem firstPayload_argW_zero (harg : c.argW = 0) (a : Addr) (op : Opcode) (g : Data11) :
    firstPayload c a op g = (a.setWidth 11 <<< 3) ||| op.setWidth 11 := by
  simp [firstPayload, lowArg, harg]

/-! ### CMD.PACK, CMD.UNPACK and CMD.ENCODE (R200 to R202) -/

theorem packCommand_wide (hc : Packs c) (hwide : op ∈ c.wide) : packCommand c a op g = [firstPayload c a op g, g] := by
  rw [packCommand, if_pos (by simpa using hwide), payloadOf_eq_firstPayload hc]

theorem packCommand_narrow (hc : Packs c) (hwide : op ∉ c.wide) : packCommand c a op g = [firstPayload c a op g] := by
  rw [packCommand, if_neg (by simpa using hwide), payloadOf_eq_firstPayload hc]

theorem map_hamEncode_packCommand (hc : Packs c) (a : Addr) (op : Opcode) (g : Data11) :
    (packCommand c a op g).map hamEncode = commandWords c a op g := by
  by_cases hwide : op ∈ c.wide
  · rw [packCommand_wide hc hwide, commandWords, if_pos hwide]
    rfl
  · rw [packCommand_narrow hc hwide, commandWords, if_neg hwide]
    rfl

/-- R64, R65: the bytes of a word, the low byte first. -/
theorem putWord_little (w : Word16) : putWord .little w = [lo w, hi w] := by
  rw [lo, hi, BitVec.setWidth_ushiftRight_eq_extractLsb, BitVec.setWidth_eq_extractLsb' (by decide)]
  rfl

theorem encodeCommand_little (hc : Packs c) (horder : c.wordOrder = .little) (a : Addr) (op : Opcode) (g : Data11) :
    encodeCommand c a op g = (commandWords c a op g).flatMap fun w => [lo w, hi w] := by
  rw [← map_hamEncode_packCommand hc, List.flatMap_map]
  simp only [encodeCommand, horder, putWord_little]

theorem exec_cmdUnpack {s : State} (hc : Packs s.cfg) (p : Data11) : exec (.cmdUnpack p) s =
    .next { s with result := .unpacked (addrOf s.cfg p) (opOf s.cfg p) (lowArg s.cfg p) } := by
  rw [← payloadAddr_eq_addrOf hc, ← payloadOp_eq_opOf hc, ← payloadArg_eq_lowArg hc]
  rfl

theorem exec_cmdPack {s : State} {ps : List Data11} (h : packCommand s.cfg a op g = ps) :
    exec (.cmdPack a op g) s = .next { s with result := .payloads ps } :=
  h ▸ rfl

end Packing

/-- Settles O16: the model's fields are the slices of the rule. -/
theorem cmdPackAndUnpack : Obligations.CmdPackAndUnpack := by
  intro a op g p s hc
  refine ⟨fun hwide => exec_cmdPack (packCommand_wide hc hwide),
    fun hwide => exec_cmdPack (packCommand_narrow hc hwide), fun harg hwide => exec_cmdPack ?_, exec_cmdUnpack hc p,
    fun ha => ?_⟩
  · rw [packCommand_narrow hc hwide, firstPayload_argW_zero harg]
  · rw [exec_cmdUnpack hc, addrOf_firstPayload hc ha, opOf_firstPayload hc ha, lowArg_firstPayload hc ha]

/-- Settles O17: each codeword leaves as its two bytes. -/
theorem cmdEncodeSendsLowBytesFirst : Obligations.CmdEncodeSendsLowBytesFirst := fun a op g _ hc horder =>
  encodeCommand_little hc horder a op g ▸ rfl

/-! ### CMD.DECODE (R204) -/

/-- R204, R274: what CMD.DECODE returns to its host. -/
def CmdAnswer.toResult : CmdAnswer → Result
  | .command a op g => .command a op g
  | .needMore => .needMore
  | .failed e => .exception e

/-- R204: two bytes or four, decoded word by word. -/
theorem exec_cmdDecode {rest : List Byte} (hlen : rest = [] ∨ rest.length = 2) (b0 b1 : Byte) (s : State) :
    exec (.cmdDecode (b0 :: b1 :: rest)) s = .next { s with result := (decodeWords s.cfg b0 b1 rest).toResult } := by
  have hbytes : (b0 :: b1 :: rest).length = 2 ∨ (b0 :: b1 :: rest).length = 4 := by
    rcases hlen with rfl | hlen
    · exact .inl rfl
    · exact .inr (by simp [hlen])
  refine (if_pos hbytes).trans ?_
  rw [decodeCommand]
  cases decodeWords s.cfg b0 b1 rest <;> rfl

section Words
variable {c : Config} {b0 b1 b2 b3 : Byte} {rest : List Byte} {p g : Data11} {e : Exc}

theorem decodeWords_failed (h : hamDecode (getWord c.wordOrder b0 b1) = .error e) :
    decodeWords c b0 b1 rest = .failed e := by
  rw [decodeWords, h]

theorem decodeWords_narrow (hc : Packs c) (h : hamDecode (getWord c.wordOrder b0 b1) = .ok p)
    (hwide : opOf c p ∉ c.wide) : decodeWords c b0 b1 rest = .command (addrOf c p) (opOf c p) (lowArg c p) := by
  rw [← payloadOp_eq_opOf hc] at hwide ⊢
  rw [decodeWords, h, ← payloadAddr_eq_addrOf hc, ← payloadArg_eq_lowArg hc]
  exact if_neg (by simpa using hwide)

theorem decodeWords_wide (hc : Packs c) (h : hamDecode (getWord c.wordOrder b0 b1) = .ok p)
    (hwide : opOf c p ∈ c.wide) : decodeWords c b0 b1 rest = decodeSecond c (addrOf c p) (opOf c p) rest := by
  rw [← payloadOp_eq_opOf hc] at hwide ⊢
  rw [decodeWords, h, ← payloadAddr_eq_addrOf hc]
  exact if_pos (by simpa using hwide)

theorem decodeSecond_nil (c : Config) (a : Addr) (op : Opcode) : decodeSecond c a op [] = .needMore := rfl

theorem decodeSecond_failed (h : hamDecode (getWord c.wordOrder b2 b3) = .error e) (a : Addr) (op : Opcode) :
    decodeSecond c a op (b2 :: b3 :: rest) = .failed e := by
  rw [decodeSecond, h]

theorem decodeSecond_ok (h : hamDecode (getWord c.wordOrder b2 b3) = .ok g) (a : Addr) (op : Opcode) :
    decodeSecond c a op (b2 :: b3 :: rest) = .command a op g := by
  rw [decodeSecond, h]

theorem getWord_little (horder : c.wordOrder = .little) (b0 b1 : Byte) : getWord c.wordOrder b0 b1 = b1 ++ b0 := by
  rw [horder]
  rfl

end Words

/-- Settles O18: the branches of the rule are those of the first word, then those of the second. -/
theorem cmdDecodeFollowsItsRule : Obligations.CmdDecodeFollowsItsRule := by
  intro b0 b1 rest s hc horder hlen
  simp only [← getWord_little horder, exec_cmdDecode hlen]
  refine ⟨fun e h => ?_, fun p h => ⟨fun hwide => ?_, fun hwide => ⟨?_, ?_⟩⟩⟩
  · rw [decodeWords_failed h]
    rfl
  · rw [decodeWords_narrow hc h hwide]
    rfl
  · rintro rfl
    rw [decodeWords_wide hc h hwide, decodeSecond_nil]
    rfl
  · rintro b2 b3 rfl
    rw [decodeWords_wide hc h hwide]
    refine ⟨fun e h' => ?_, fun g h' => ?_⟩
    · rw [decodeSecond_failed h']
      rfl
    · rw [decodeSecond_ok h']
      rfl

/-- R115, R118 (b): a codeword with no error, or one in bits 0 to 14, decodes to its data. -/
theorem hamDecode_at_most_one_flipped (d : Data11) {e : Word16} (he : e = 0 ∨ ∃ k, k < 15 ∧ e = oneBit k) :
    hamDecode (hamEncode d ^^^ e) = .ok d := by
  obtain rfl | ⟨k, hk, rfl⟩ := he
  · exact (congrArg hamDecode BitVec.xor_zero).trans (hamDecode_hamEncode d)
  · exact hamDecode_one_flipped d hk

/-- Settles O19: each word is read back as it was put, its error corrected, and the payload taken apart. -/
theorem commandSurvivesOneErrorPerWord : Obligations.CommandSurvivesOneErrorPerWord := by
  intro a op g s e0 e1 hc ha he0 he1
  obtain ⟨b0, b1, hput, hget⟩ := exists_putWord s.cfg.wordOrder (hamEncode (firstPayload s.cfg a op g) ^^^ e0)
  obtain ⟨b2, b3, hput', hget'⟩ := exists_putWord s.cfg.wordOrder (hamEncode g ^^^ e1)
  have hfirst : hamDecode (getWord s.cfg.wordOrder b0 b1) = .ok (firstPayload s.cfg a op g) := by
    rw [hget, hamDecode_at_most_one_flipped _ he0]
  have hsecond : hamDecode (getWord s.cfg.wordOrder b2 b3) = .ok g := by
    rw [hget', hamDecode_at_most_one_flipped _ he1]
  have hop := opOf_firstPayload (op := op) (g := g) hc ha
  have haddr := addrOf_firstPayload (op := op) (g := g) hc ha
  simp only [hput, hput', List.cons_append, List.nil_append]
  refine ⟨fun hwide => ?_, fun hwide => ?_⟩
  · rw [exec_cmdDecode (.inl rfl), decodeWords_narrow hc hfirst (by rwa [hop]), hop, haddr, lowArg_firstPayload hc ha]
    rfl
  · rw [exec_cmdDecode (.inr rfl), decodeWords_wide hc hfirst (by rwa [hop]), hop, haddr, decodeSecond_ok hsecond]
    rfl

/-! ### CMD.SEND (R203) -/

/-- Settles O20: both operations start the same transmission. -/
theorem cmdSendIsBreakThenTheEncodedBytes : Obligations.CmdSendIsBreakThenTheEncodedBytes := by
  intro a op g m hrole hdir hring
  have hsame : exec (.cmdSend a op g) m = exec (.mSend true (encodeCommand m.cfg a op g)) m := rfl
  have hlen : (encodeCommand m.cfg a op g).length ≤ m.cfg.ringLen := by
    rw [length_encodeCommand]
    split <;> omega
  exact ⟨encodeCommand m.cfg a op g, rfl, hsame, _, hsame.trans (exec_mSend hrole hdir (.inl rfl) hlen), rfl, rfl, rfl⟩

/-! ### The address filter and what passes it (R207, R208) -/

section Filter
variable {s : State} {a : Addr} {op : Opcode} {bc : Bool}

theorem filterCommand_reserved (s : State) (a : Addr) : s.filterCommand a 4 = none := rfl

theorem filterCommand_bcast (hop : op ≠ 4) (hbc : a = s.cfg.bcast) : s.filterCommand a op = some true :=
  (if_neg hop).trans (if_pos hbc)

theorem filterCommand_own (hop : op ≠ 4) (hbc : a ≠ s.cfg.bcast) (hzero : a ≠ 0) (hown : a = s.myAddr) :
    s.filterCommand a op = some false :=
  (if_neg hop).trans ((if_neg hbc).trans (if_pos ⟨hzero, hown⟩))

theorem filterCommand_other (hop : op ≠ 4) (hbc : a ≠ s.cfg.bcast) (hother : a = 0 ∨ a ≠ s.myAddr) :
    s.filterCommand a op = none :=
  (if_neg hop).trans ((if_neg hbc).trans (if_neg (by tauto)))

theorem offerCommand_passed (h : s.filterCommand a op = some bc) (g : Data11) (effect : State → State) :
    offerCommand a op g effect s = .next { effect s with result := .delivered a op g bc } := by
  rw [offerCommand, h]
  rfl

theorem offerCommand_dropped (h : s.filterCommand a op = none) (g : Data11) (effect : State → State) :
    offerCommand a op g effect s = .next { s with result := .noCommand } := by
  rw [offerCommand, h]
  rfl

theorem offerCommand_completes (a : Addr) (op : Opcode) (g : Data11) (effect : State → State) (s : State) :
    ∃ t, offerCommand a op g effect s = .next t := by
  cases h : s.filterCommand a op with
  | none => exact ⟨_, offerCommand_dropped h g effect⟩
  | some bc => exact ⟨_, offerCommand_passed h g effect⟩

/-- R207: an opcode in use is delivered to every module or to the addressed one, and to no other. -/
theorem offerCommand_by_address (hop : op ≠ 4) (a : Addr) (g : Data11) (effect : State → State) (s : State) :
    (a = s.cfg.bcast → offerCommand a op g effect s = .next { effect s with result := .delivered a op g true }) ∧
    (a ≠ s.cfg.bcast → a ≠ 0 → a = s.myAddr →
      offerCommand a op g effect s = .next { effect s with result := .delivered a op g false }) ∧
    (a ≠ s.cfg.bcast → (a = 0 ∨ a ≠ s.myAddr) →
      offerCommand a op g effect s = .next { s with result := .noCommand }) :=
  ⟨fun hbc => offerCommand_passed (filterCommand_bcast hop hbc) g effect,
    fun hbc hzero hown => offerCommand_passed (filterCommand_own hop hbc hzero hown) g effect,
    fun hbc hother => offerCommand_dropped (filterCommand_other hop hbc hother) g effect⟩

/-- R207: FILTER alone offers a command that has no part in the block. -/
theorem exec_filter (hrole : s.cfg.role = .moduleRole) (a : Addr) (op : Opcode) (g : Data11) :
    exec (.filter a op g) s = offerCommand a op g id s :=
  needModule_own hrole _

end Filter

/-- Settles O22: FILTER is the bare offer, and only the reserved opcode needs a clause of its own. -/
theorem filterFollowsItsRule : Obligations.FilterFollowsItsRule := by
  intro a op g s hrole
  rw [exec_filter hrole]
  refine ⟨?_, fun hop => ?_, fun hop => ?_, fun hop => ?_⟩
  · rintro rfl
    exact offerCommand_dropped (filterCommand_reserved s a) g id
  all_goals obtain ⟨hbcast, hown, hother⟩ := offerCommand_by_address hop a g id s
  · exact hbcast
  · exact hown
  · exact hother

/-! ### The commands (R211 to R218) -/

/-- Settles O23: the rows are offers without a part in the block, and no opcode among theirs is the reserved one. -/
theorem commandsDeliveredWithoutBlockEffect : Obligations.CommandsDeliveredWithoutBlockEffect := by
  intro a g s hrole
  refine ⟨fun i op hrow => ?_,
    (needModule_own hrole _).trans (offerCommand_dropped (filterCommand_reserved s a) g id)⟩
  have hoffer : exec i s = offerCommand a op g id s ∧ op ≠ 4 := by
    simp only [List.mem_cons, Prod.mk.injEq, List.not_mem_nil, or_false] at hrow
    obtain ⟨rfl, rfl⟩ | ⟨rfl, rfl⟩ | ⟨rfl, rfl⟩ | ⟨rfl, rfl⟩ | ⟨rfl, rfl⟩ := hrow <;>
      exact ⟨needModule_own hrole _, by decide⟩
  obtain ⟨hexec, hop⟩ := hoffer
  rw [hexec]
  exact offerCommand_by_address hop a g id s

theorem claimSlot_claims {s : State} {g : Data11} (haddr : s.myAddr = 0) (hlow : 1 ≤ g.toNat) (hhigh : g.toNat ≤ 63) :
    claimSlot g s = { s with myAddr := BitVec.ofNat 8 g.toNat, fwdReq := some (g + 1) } := by
  rw [BitVec.ofNat_toNat]
  exact if_pos ⟨haddr, hlow, hhigh⟩

theorem claimSlot_keeps {s : State} {g : Data11} (h : s.myAddr ≠ 0 ∨ g.toNat = 0 ∨ 63 < g.toNat) : claimSlot g s = s :=
  if_neg fun ⟨haddr, hlow, hhigh⟩ => by
    have hhigh : g.toNat ≤ 63 := hhigh
    rcases h with h | h | h
    · exact h haddr
    all_goals omega

/-- Settles O24: an own address is nonzero, so only a broadcast can find the module unaddressed. -/
theorem setaddrClaimsASlotOnce : Obligations.SetaddrClaimsASlotOnce := by
  intro a g s hrole
  have hoffer : exec (.setaddr a g) s = offerCommand a 1 g (claimSlot g) s := needModule_own hrole _
  obtain ⟨hbcast, hown, hother⟩ := offerCommand_by_address (op := 1) (by decide) a g (claimSlot g) s
  rw [hoffer]
  refine ⟨fun hbc haddr hlow hhigh => ?_, fun hbc hkeeps => ?_, fun hbc hzero haddr => ?_, hother⟩
  · rw [hbcast hbc, claimSlot_claims haddr hlow hhigh]
  · rw [hbcast hbc, claimSlot_keeps hkeeps]
  · rw [hown hbc hzero haddr, claimSlot_keeps (.inl (haddr ▸ hzero))]

/-- Settles O25: the row is an offer whose part in the block drops the address. -/
theorem addrmodeDropsTheAddress : Obligations.AddrmodeDropsTheAddress := by
  intro a g s hrole
  have hoffer : exec (.addrmode ⟨a, g⟩) s = offerCommand a 5 g dropAddress s := needModule_own hrole _
  rw [hoffer]
  exact offerCommand_by_address (by decide) a g dropAddress s

/-! ### CMD.RECV (R206) -/

/-- R206: what a new frame does once its words are decoded. -/
def receiveAnswer (s : State) : CmdAnswer → Answer
  | .command a op g => offerCommand a op g (commandEffect op g) (takeFrame 2 s)
  | .needMore => ret .noCommand (takeFrame 4 s)
  | .failed _ => ret .noCommand (takeFrame 2 s)

section Receive
variable {s : State}

theorem exec_cmdRecv_short (hrole : s.cfg.role = .moduleRole) (hcount : s.rxCount < 2) :
    exec .cmdRecv s = .next { s with result := .noCommand } :=
  (needModule_own hrole _).trans (if_pos hcount)

theorem exec_cmdRecv_old (hrole : s.cfg.role = .moduleRole) (hcount : 2 ≤ s.rxCount) (hlen : s.rxLen = 2)
    (hflag : s.frameComplete = false) : exec .cmdRecv s = .next { s with result := .noCommand } :=
  (needModule_own hrole _).trans ((if_neg (Nat.not_lt.mpr hcount)).trans (if_pos ⟨hlen, hflag⟩))

/-- R206: the words of a new frame are in the first two bytes of RXBUF, or in four where four have arrived. -/
theorem exec_cmdRecv_new (hrole : s.cfg.role = .moduleRole) (hcount : 2 ≤ s.rxCount)
    (hnew : s.rxLen ≠ 2 ∨ s.frameComplete = true) :
    exec .cmdRecv s = receiveAnswer s (decodeWords s.cfg (s.readByte .rxbuf 0) (s.readByte .rxbuf 1)
      (if s.rxCount < 4 then [] else [s.readByte .rxbuf 2, s.readByte .rxbuf 3])) := by
  have hframe : ¬ (s.rxLen = 2 ∧ s.frameComplete = false) := by
    rintro ⟨hlen, hflag⟩
    simp [hlen, hflag] at hnew
  have hdecode : decodeCommand s.cfg (s.readBytes .rxbuf (if s.rxCount < 4 then 2 else 4)) =
      some (decodeWords s.cfg (s.readByte .rxbuf 0) (s.readByte .rxbuf 1)
        (if s.rxCount < 4 then [] else [s.readByte .rxbuf 2, s.readByte .rxbuf 3])) := by
    split <;> rfl
  refine (needModule_own hrole _).trans ?_
  rw [if_neg (Nat.not_lt.mpr hcount), if_neg hframe, hdecode]
  generalize decodeWords s.cfg _ _ _ = answer
  cases answer <;> rfl

/-- R206, R208: a decoded command does what its own row does, and completes. -/
theorem receiveAnswer_command (hrole : s.cfg.role = .moduleRole) (a : Addr) (op : Opcode) (g : Data11) :
    receiveAnswer s (.command a op g) =
      exec (commandInstr a op g) { s with rxLen := 2, frameComplete := false } ∧
    ∃ t, receiveAnswer s (.command a op g) = .next t :=
  ⟨(exec_commandInstr (s := takeFrame 2 s) hrole a op g).symm, offerCommand_completes ..⟩

end Receive

/-- Settles O21: the early answers, then the branches of the first word, then those of the second. -/
theorem cmdRecvFollowsItsRule : Obligations.CmdRecvFollowsItsRule := by
  intro s hrole hc horder w0 w1 after
  refine ⟨exec_cmdRecv_short hrole, exec_cmdRecv_old hrole, fun hcount hnew => ?_⟩
  have hw0 : getWord s.cfg.wordOrder (s.readByte .rxbuf 0) (s.readByte .rxbuf 1) = w0 := getWord_little horder _ _
  have hw1 : getWord s.cfg.wordOrder (s.readByte .rxbuf 2) (s.readByte .rxbuf 3) = w1 := getWord_little horder _ _
  rw [exec_cmdRecv_new hrole hcount hnew, ← hw0, ← hw1]
  refine ⟨fun e h => ?_, fun p h => ⟨fun hwide => ?_, fun hwide => ⟨fun hfour => ?_, fun hfour => ?_⟩⟩⟩
  · rw [decodeWords_failed h]
    rfl
  · rw [decodeWords_narrow hc h hwide]
    exact receiveAnswer_command hrole ..
  · rw [decodeWords_wide hc h hwide, if_pos hfour, decodeSecond_nil]
    rfl
  · rw [decodeWords_wide hc h hwide, if_neg (Nat.not_lt.mpr hfour)]
    refine ⟨fun e h' => ?_, fun g h' => ?_⟩
    · rw [decodeSecond_failed h']
      rfl
    · rw [decodeSecond_ok h']
      exact receiveAnswer_command hrole ..

/-! ### FORWARD (R219) -/

/-- R212, R219: a request for the slot is served, one for another slot stays (log 15). -/
theorem exec_forward {s : State} (hready : SerReady s) (slot : Data11) :
    exec (.forward slot) s = startTransmission (encodeCommand s.cfg s.cfg.bcast 1 slot)
      { s with fwdReq := if s.fwdReq = some slot then none else s.fwdReq } := by
  refine (needSer_ready hready _).trans ?_
  by_cases hreq : s.fwdReq = some slot
  · rw [if_pos hreq, if_pos hreq]
  · rw [if_neg hreq, if_neg hreq]

/-- R219: the four bytes of the SETADDR broadcast under the spec's packing. -/
theorem encodeCommand_setaddr_broadcast {c : Config} (h : SpecPacking c) (slot : Data11) :
    encodeCommand c c.bcast 1 slot = [0xA4, 0x45, lo (hamEncode slot), hi (hamEncode slot)] := by
  obtain ⟨haddr, harg, hbcast, hwide, horder⟩ := h
  have hc : Packs c := by rw [Packs, haddr, harg]
  have hfirst : firstPayload c c.bcast 1 slot = 0x551 := by
    rw [firstPayload_argW_zero harg, hbcast]
    rfl
  have hcode : hamEncode 0x551 = 0x45A4 := by decide
  rw [encodeCommand_little hc horder, commandWords, if_pos (by simp [hwide]), hfirst, hcode]
  rfl

/-- Settles O27: FORWARD is TX.SEND of these bytes after the request is served. -/
theorem forwardStartsTheSetaddrBroadcast : Obligations.ForwardStartsTheSetaddrBroadcast := by
  intro slot s hready hfsm hbusy hpacking hroom bs
  have hlen : bs.length = 4 := rfl
  have hpos : 1 ≤ bs.length := by omega
  have hfits : bs.length ≤ s.cfg.txbufLen := by omega
  have hexec : exec (.forward slot) s = startTransmission bs
      { s with fwdReq := if s.fwdReq = some slot then none else s.fwdReq } := by
    rw [exec_forward hready, encodeCommand_setaddr_broadcast hpacking]
  exact ⟨_, hexec.trans (startTransmission_next.mpr ⟨hbusy, hfsm, hpos, hfits, rfl⟩), rfl,
    readByte_txbuf_writeList (s := s) (bs := bs) rfl⟩

end Machine
end Sys2Proof
end

section
/-! Proofs: unit FRM, the CRC-trailed blocks (45_reply.md): what the builds lay out, how the checks compare the trailer,
and how a block is read back (R242 to R249). -/

namespace Sys2Proof
namespace Machine
open Sys2Proof.SpecForm

/-! ### Words and the serial number as bytes (R64 to R66, R246, R247) -/

theorem putWords_little (ws : List Word16) : putWords .little ws = ws.flatMap fun w => [lo w, hi w] :=
  congrArg ws.flatMap (funext putWord_little)

theorem length_putWords (o : WordOrder) (ws : List Word16) : (putWords o ws).length = 2 * ws.length := by
  induction ws with
  | nil => rfl
  | cons w ws ih =>
    obtain ⟨b0, b1, hput, -⟩ := exists_putWord o w
    rw [putWords, List.flatMap_cons, List.length_append, ← putWords, ih, hput, List.length_cons]
    exact (Nat.add_comm ..).trans (Nat.mul_succ ..).symm

theorem getWords_putWords (o : WordOrder) (ws : List Word16) : getWords o (putWords o ws) = ws := by
  induction ws with
  | nil => rfl
  | cons w ws ih =>
    obtain ⟨b0, b1, hput, hget⟩ := exists_putWord o w
    rw [putWords, List.flatMap_cons, ← putWords, hput, List.cons_append, List.cons_append, List.nil_append, getWords,
      hget, ih]

theorem length_flatMap_pairs (ps : List (Byte × Byte)) : (ps.flatMap fun p => [p.1, p.2]).length = 2 * ps.length := by
  simp [List.length_flatMap, Nat.mul_comm]

theorem getWords_flatMap_pairs (o : WordOrder) (ps : List (Byte × Byte)) :
    getWords o (ps.flatMap fun p => [p.1, p.2]) = ps.map fun p => getWord o p.1 p.2 := by
  induction ps with
  | nil => rfl
  | cons p ps ih => exact congrArg (getWord o p.1 p.2 :: ·) ih

theorem putSerial_eq (sn : BitVec 32) : putSerial sn =
    [sn.setWidth 8, (sn >>> 8).setWidth 8, (sn >>> 16).setWidth 8, (sn >>> 24).setWidth 8] := by
  simp only [BitVec.setWidth_eq_extractLsb' (show 8 ≤ 32 by decide)]
  rfl

theorem getSerial_putSerial (sn : BitVec 32) : getSerial (putSerial sn) = sn := by
  simp only [putSerial, getSerial]
  ext i hi'
  simp only [BitVec.getElem_append, BitVec.getElem_extractLsb']
  grind

/-- What the checks read behind the first byte of a block. -/
theorem take_drop_one_block {ws : List Byte} {k : Nat} (hlen : ws.length = k) (b : Byte) (rest : List Byte) :
    ((b :: ws ++ rest).drop 1).take k = ws :=
  List.take_left' hlen

theorem getWords_block {ws : List Word16} {k : Nat} (hlen : ws.length = k) (o : WordOrder) (b : Byte)
    (rest : List Byte) : getWords o (((b :: putWords o ws ++ rest).drop 1).take (2 * k)) = ws := by
  subst hlen
  rw [take_drop_one_block (length_putWords o ws), getWords_putWords]

/-! ### The builds (R244, R246, R248) -/

theorem buildBlock_little {s : State} (horder : s.cfg.wordOrder = .little) (body : List Byte) :
    buildBlock body s =
      .next { s with crc := crcBlock body, result := .bytes (body ++ [lo (crcBlock body), hi (crcBlock body)]) } := by
  rw [buildBlock, withTrailer, horder, putWord_little]
  rfl

theorem exec_measBuild {s : State} (hrole : s.cfg.role = .moduleRole) (v0 v1 v2 v3 v4 : Word16) :
    exec (.measBuild v0 v1 v2 v3 v4) s =
      buildBlock (s.myAddr :: putWords s.cfg.wordOrder [v0, v1, v2, v3, v4]) s :=
  needModule_own hrole _

theorem exec_verBuild {s : State} {sw hw : List Byte} (hrole : s.cfg.role = .moduleRole) (hsw : sw.length = 4)
    (hhw : hw.length = 2) (sn : BitVec 32) : exec (.verBuild sw hw sn) s = buildBlock (sw ++ hw ++ putSerial sn) s :=
  (needModule_own hrole _).trans (if_pos ⟨hsw, hhw⟩)

theorem exec_pageBuild {s : State} {ws : List Word16} (hrole : s.cfg.role = .masterRole) (hws : ws.length = 32)
    (n : Byte) : exec (.pageBuild n ws) s = buildBlock (n :: putWords s.cfg.wordOrder ws) s :=
  (needMaster_own hrole _).trans (if_pos hws)

/-- Settles O10: the words of the body leave low byte first. -/
theorem measBuildLaysOutTheBlock : Obligations.MeasBuildLaysOutTheBlock := by
  intro v0 v1 v2 v3 v4 s hrole horder body
  have hbody : s.myAddr :: putWords s.cfg.wordOrder [v0, v1, v2, v3, v4] = body := by
    rw [horder, putWords_little]
    rfl
  rw [exec_measBuild hrole, hbody, buildBlock_little horder]

/-- Settles O11: the slices of the serial number are its bytes, and the words of a page leave low byte first. -/
theorem verAndPageBuildLayOutTheBlock : Obligations.VerAndPageBuildLayOutTheBlock := by
  refine ⟨fun sw hw sn s hrole horder hsw hhw => ?_, fun n ws s hrole horder hws => ?_⟩
  · rw [exec_verBuild hrole hsw hhw, putSerial_eq, buildBlock_little horder]
  · rw [exec_pageBuild hrole hws, buildBlock_little horder, horder, putWords_little]

/-! ### The checks (R242, R245, R247, R249) -/

section Check
variable {n : Nat} {body : List Byte} {s : State}

/-- R242: the trailer that a check reads is the word of the last two bytes. -/
theorem storedTrailer_append (hlen : body.length + 2 = n) (o : WordOrder) (b0 b1 : Byte) :
    storedTrailer o n (body ++ [b0, b1]) = getWord o b0 b1 := by
  subst hlen
  simp [storedTrailer, byteAt, List.getD_eq_getElem?_getD]

theorem take_body (hlen : body.length + 2 = n) (trailer : List Byte) : (body ++ trailer).take (n - 2) = body :=
  List.take_left' (by omega)

theorem checkBlock_accepts {b0 b1 : Byte} (hlen : body.length + 2 = n)
    (hcrc : crcBlock body = getWord s.cfg.wordOrder b0 b1) (r : Result) :
    checkBlock n (body ++ [b0, b1]) r s = .next { s with crc := crcBlock body, result := r } := by
  refine checkBlock_next.mpr ⟨by simpa using hlen, .inl ?_⟩
  rw [take_body hlen, storedTrailer_append hlen]
  exact ⟨hcrc, rfl⟩

theorem checkBlock_rejects {b0 b1 : Byte} (hlen : body.length + 2 = n)
    (hcrc : crcBlock body ≠ getWord s.cfg.wordOrder b0 b1) (r : Result) :
    checkBlock n (body ++ [b0, b1]) r s = .next { s with
      crc := crcBlock body
      result := .exception (.crcMismatch (crcBlock body) (getWord s.cfg.wordOrder b0 b1)) } := by
  refine checkBlock_next.mpr ⟨by simpa using hlen, .inr ?_⟩
  rw [take_body hlen, storedTrailer_append hlen]
  exact ⟨hcrc, rfl⟩

/-- R242, with the spec's byte order: both outcomes of a check operation whose fields of the block are `v`. -/
theorem exec_check_little {check : List Byte → Instr} {r : List Byte → Result} {v : Result} {cl ch : Byte}
    (hcheck : ∀ bs, exec (check bs) s = checkBlock n bs (r bs) s) (horder : s.cfg.wordOrder = .little)
    (hlen : body.length + 2 = n) (hfields : r (body ++ [cl, ch]) = v) :
    (crcBlock body = ch ++ cl →
      exec (check (body ++ [cl, ch])) s = .next { s with crc := crcBlock body, result := v }) ∧
    (crcBlock body ≠ ch ++ cl →
      exec (check (body ++ [cl, ch])) s =
        .next { s with crc := crcBlock body, result := .exception (.crcMismatch (crcBlock body) (ch ++ cl)) }) := by
  rw [hcheck, hfields, ← getWord_little horder]
  exact ⟨fun hcrc => checkBlock_accepts hlen hcrc v, fun hcrc => checkBlock_rejects hlen hcrc v⟩

end Check

/-- Settles O12: the fields are those at their offsets, the words read low byte first. -/
theorem measCheckComparesTheTrailer : Obligations.MeasCheckComparesTheTrailer := by
  intro a l0 h0 l1 h1 l2 h2 l3 h3 l4 h4 cl ch s hrole horder
  refine exec_check_little (fun _ => needMaster_own hrole _) horder rfl ?_
  rw [horder]
  rfl

/-- Settles O13: the version's fields are at fixed offsets, and the page's words are the pairs behind the number. -/
theorem verAndPageCheckCompareTheTrailer : Obligations.VerAndPageCheckCompareTheTrailer := by
  refine ⟨fun a0 a1 a2 a3 b0 b1 n0 n1 n2 n3 cl ch s hrole horder => ?_, fun n ws cl ch s hrole horder hws => ?_⟩
  · exact exec_check_little (fun _ => needMaster_own hrole _) horder rfl rfl
  · have hbytes : (ws.flatMap fun w => [w.1, w.2]).length = 2 * Config.pageWords := by
      rw [length_flatMap_pairs, hws]
      rfl
    refine exec_check_little (fun _ => needModule_own hrole _) horder (by rw [List.length_cons, hbytes]; rfl) ?_
    rw [take_drop_one_block hbytes, getWords_flatMap_pairs, horder]
    rfl

/-! ### A built block at the other role (R242) -/

theorem length_withTrailer (o : WordOrder) (body : List Byte) : (withTrailer o body).length = body.length + 2 := by
  obtain ⟨b0, b1, hput, -⟩ := exists_putWord o (crcBlock body)
  rw [withTrailer, hput, List.length_append]
  rfl

theorem checkBlock_withTrailer {n : Nat} {body : List Byte} {s : State} (hlen : body.length + 2 = n) (r : Result) :
    checkBlock n (withTrailer s.cfg.wordOrder body) r s = .next { s with crc := crcBlock body, result := r } := by
  obtain ⟨b0, b1, hput, hget⟩ := exists_putWord s.cfg.wordOrder (crcBlock body)
  rw [withTrailer, hput]
  exact checkBlock_accepts hlen hget.symm r

/-- R242: between two blocks of one byte order, what a build operation answers is what the check operation accepts. -/
theorem built_block_checks {build : Instr} {check : List Byte → Instr} {r : List Byte → Result} {v : Result}
    {sender receiver : State} {n : Nat} {body : List Byte} (horder : receiver.cfg.wordOrder = sender.cfg.wordOrder)
    (hbuild : exec build sender = buildBlock body sender)
    (hcheck : ∀ bs, exec (check bs) receiver = checkBlock n bs (r bs) receiver) (hlen : body.length + 2 = n)
    (hfields : ∀ trailer, r (body ++ trailer) = v) :
    ∃ bs c, exec build sender = .next { sender with crc := c, result := .bytes bs } ∧ bs.length = n ∧
      exec (check bs) receiver = .next { receiver with crc := c, result := v } := by
  refine ⟨withTrailer sender.cfg.wordOrder body, crcBlock body, hbuild, (length_withTrailer _ _).trans hlen, ?_⟩
  rw [hcheck, ← horder, checkBlock_withTrailer hlen, withTrailer, hfields]

/-- Settles O14: each check reads at its offsets what the build put there. -/
theorem builtBlocksPassTheirCheck : Obligations.BuiltBlocksPassTheirCheck := by
  intro m s hm hs horder
  refine ⟨fun v0 v1 v2 v3 v4 => ?_, fun sw hw sn hsw hhw => ?_, fun n ws hws => ?_⟩
  · refine built_block_checks horder (exec_measBuild hs v0 v1 v2 v3 v4) (fun _ => needMaster_own hm _) ?_ fun t => ?_
    · rw [List.length_cons, length_putWords]
      rfl
    · rw [horder, getWords_block (k := Config.channels) rfl]
      rfl
  · refine built_block_checks horder (exec_verBuild hs hsw hhw sn) (fun _ => needMaster_own hm _) ?_ fun t => ?_
    · rw [List.length_append, List.length_append, hsw, hhw]
      rfl
    · have hserial : (putSerial sn).length = 4 := rfl
      have hheader : (sw ++ hw).length = 6 := by rw [List.length_append, hsw, hhw]
      rw [List.append_assoc (sw ++ hw), List.drop_left' hheader, List.take_left' hserial, getSerial_putSerial,
        List.append_assoc sw, List.drop_left' hsw, List.take_left' hsw, List.take_left' hhw]
  · refine built_block_checks horder.symm (exec_pageBuild hm hws n) (fun _ => needModule_own hs _) ?_ fun t => ?_
    · rw [List.length_cons, length_putWords, hws]
    · rw [← horder, getWords_block (k := Config.pageWords) hws]
      rfl

end Machine
end Sys2Proof
end

section
/-! Proofs: the exceptions and interrupts (60_exceptions.md): what stops before POL.DETECT (R265, R295), what a raised
interrupt does to the next step (R271, R272), and sleep and wake (R281). -/

namespace Sys2Proof
namespace Machine
open Sys2Proof.SpecForm

/-! ### Before POL.DETECT (R265, R295) -/

section BeforePolDetect
variable {s : State} (hrole : s.cfg.role = .moduleRole) (hpol : s.polDetected = false)
include hrole hpol

theorem needSer_beforePolDetect (k : Answer) : needSer s k = .refused .beforePolDetect := by
  rw [needSer, needModule_own hrole, hpol]
  exact if_neg Bool.false_ne_true

theorem onLine_beforePolDetect (k : State) : onLine s k = .refused .beforePolDetect := by
  simp [onLine, hrole, hpol]

end BeforePolDetect

/-- Settles O43: the operations ask for POL.DETECT before anything else, the formats once their shape is settled. -/
theorem serRefusedBeforePolDetect : Obligations.SerRefusedBeforePolDetect := by
  intro s hrole hpol
  have hser : ∀ k, needSer s k = .refused .beforePolDetect := needSer_beforePolDetect hrole hpol
  have hline : ∀ k, onLine s k = .refused .beforePolDetect := onLine_beforePolDetect hrole hpol
  refine ⟨fun i v n bs slot hi => ?_, fun i bs hwf hbs => (exec_lineFormat hwf hbs).trans (hline _)⟩
  revert i
  simp only [List.forall_mem_cons, List.not_mem_nil, false_implies, implies_true, and_true]
  exact ⟨hser _, hser _, hser _, hser _, hser _, hser _, hser _, hser _, hser _, hser _, hser _, hser _, hline _⟩

/-! ### A raised interrupt (R271, R272) -/

theorem step_raisedEdge {s : State} (hedge : s.edgePend = true) : step s = .next (takeEdge s) :=
  if_pos hedge

/-- R134: a raised TICK is the TICK of the case that the state presents, with the level on the line. -/
theorem step_raisedTick {s : State} {c : TickCase} (hready : SerReady s) (hedge : s.edgePend = false)
    (htick : s.tickPend = true) (hcase : s.tickCase = some c) : step s = tickOf c s.lineIn s := by
  have htickOf : tickOf c s.lineIn s = .next (runTick c s.lineIn s) :=
    tickOf_next.mpr ⟨hready.1, hready.2, hcase, rfl⟩
  rw [htickOf]
  simp [step, stepOnce, serveTick, hedge, htick, hcase, hready.2]

/-- Settles O51: EDGE asks only for a usable module; the clock, the transmission and the slot say which TICK it is. -/
theorem raisedInterruptsRunFirst : Obligations.RaisedInterruptsRunFirst := by
  intro s hready
  refine ⟨fun hedge => ?_, fun hedge htick hrun => ?_⟩
  · calc step s = .next (takeEdge s) := step_raisedEdge hedge
      _ = exec .edge s := (needSer_ready hready _).symm
  · have hstep : ∀ c, s.tickCase = some c → step s = tickOf c s.lineIn s :=
      fun _ => step_raisedTick hready hedge htick
    refine ⟨fun hbusy => hstep .tx ?_, fun hbusy hfsm => hstep .rxStart ?_, fun hbusy hfsm hcnt => hstep .rxData ?_,
      fun hbusy hfsm hcnt => hstep .rxStop ?_⟩ <;> refine tickCase_eq_some_iff.mpr ⟨hrun, ?_⟩
    · exact .inl ⟨rfl, hbusy⟩
    · exact .inr ⟨hbusy, .inl ⟨rfl, hfsm⟩⟩
    · exact .inr ⟨hbusy, .inr (.inl ⟨rfl, hfsm, hcnt⟩)⟩
    · exact .inr ⟨hbusy, .inr (.inr ⟨rfl, hfsm, hcnt⟩)⟩

/-! ### Sleep and wake (R281) -/

theorem step_sleep {s : State} {rest : List Input} (hedge : s.edgePend = false) (htick : s.tickPend = false)
    (hin : s.inputs = .sleep :: rest) : step s = hostSleeps { s with inputs := rest } := by
  simp [step, stepOnce, hedge, htick, hin, runInput]

/-- R12: a level and the other one have opposite logical values. -/
theorem logical_of_ne {s : State} {v w : Bool} (h : v ≠ w) : s.logical v = !s.logical w := by
  rw [Bool.eq_not_of_ne h, State.logical, State.logical]
  cases w <;> simp

section Level
variable {s : State} {v : Bool} (hpol : s.polDetected = true) (hprev : s.linePrev = s.logical s.lineIn)
include hpol hprev

/-- R132: a level that `line_prev` already holds changes nothing, whether the host sleeps or not. -/
theorem presentLevel_unchanged : presentLevel s.lineIn s = s := by
  rw [presentLevel_detects (.inr rfl), detectEdge_detected hpol, ← hprev, fallingEdge_self, Bool.false_and,
    Bool.or_false]

/-- R281, R132: the wake, and the EDGE that the same change raises where the detector is armed. -/
theorem presentLevel_wakes_detected (hasleep : s.asleep = true) (hedge : s.edgePend = false) (hv : v ≠ s.lineIn) :
    presentLevel v s = { s with
      asleep := false, polDetected := false, lineIn := v, linePrev := s.logical v
      edgePend := decide (s.linePrev = true ∧ s.rxFsm = .waitEdge ∧ s.txBusy = false) } := by
  have hfalls : (s.linePrev = true ∧ s.logical v = false ∧ s.rxFsm = .waitEdge ∧ s.txBusy = false) ↔
      (s.linePrev = true ∧ s.rxFsm = .waitEdge ∧ s.txBusy = false) := by
    rw [logical_of_ne hv, ← hprev, Bool.not_eq_false', ← and_assoc, and_self]
  rw [presentLevel_wakes hasleep hv, detectEdge_detected hpol, raisesEdge_eq, hedge, Bool.false_or,
    decide_eq_decide.mpr hfalls]

end Level

/-- Settles O54: the input is the host's sleep, the level the line has, or a change of it. -/
theorem sleepAndWake : Obligations.SleepAndWake := by
  intro s rest hready hedge htick
  obtain ⟨hrole, hpol⟩ := hready
  refine ⟨fun hin => (step_sleep hedge htick hin).trans (needModule_own hrole _), fun hasleep hprev v hin hdriven => ?_⟩
  rw [step_line hedge htick hin, lineInput_next, lineInput_next]
  refine ⟨fun hv => ⟨hdriven, ?_⟩, fun hv => ⟨hdriven, ?_⟩⟩
  · subst hv
    exact (presentLevel_unchanged (s := { s with inputs := rest }) hpol hprev).symm
  · exact (presentLevel_wakes_detected (s := { s with inputs := rest }) hpol hprev hasleep hedge hv).symm

end Machine
end Sys2Proof
end

section
/-! Proofs: the values that reset leaves (R291 to R293, R47). -/

namespace Sys2Proof
namespace Machine

/-- U1: a byte that nothing has written has the value the spec leaves open. -/
theorem readByte_unwritten {s : State} {sp : Space} {a : Nat} (h : (s.buffer sp).cell a = none) :
    s.readByte sp a = Config.unspecifiedByte sp a none := by
  simp only [State.readByte, h]

/-- R291, R292: reset has written no byte of RXBUF, TXBUF or RING. -/
theorem buffer_resetWith (c : Config) (u : Unspecified) (sp : Space) : (State.resetWith c u).buffer sp = [] := by
  cases sp with
  | rxbuf => rfl
  | txbuf => rfl
  | ring => rfl

theorem readByte_resetWith (c : Config) (u : Unspecified) (sp : Space) (a : Nat) :
    (State.resetWith c u).readByte sp a = Config.unspecifiedByte sp a none :=
  readByte_unwritten (by rw [buffer_resetWith, Memory.cell])

/-- Settles O57: each register is a field that `State.resetWith` sets, and the buffers are empty; the model's own reset
takes the named values. -/
theorem resetValuesAreTheSpecs : Obligations.ResetValuesAreTheSpecs := by
  refine ⟨fun c u => ?_, Config.default, Unspecified.named Config.default, rfl⟩
  exact ⟨
    -- R291: the module's receiver, its clock and its transmitter, and what is raised
    rfl, rfl, rfl, rfl, rfl, rfl, rfl, rfl, rfl, rfl, rfl, rfl,
    -- R292: the master
    rfl, rfl, rfl, rfl, rfl, rfl,
    -- R293: the address; R47: `line_prev`
    rfl, rfl,
    -- the registers without a stated value: `pol`, `rx_acc`, `clk_cnt`, `line_out`, `crc`
    rfl, rfl, rfl, rfl, rfl,
    readByte_resetWith c u⟩

end Machine
end Sys2Proof
end
